-- ==== Sys2Proof/Word.lean ====
section
/-! DEFINITION. The value types of the ORION-EQ control core: pin levels, logical and raw time, segment values,
display patterns and the four drive states. -/

namespace Sys2Proof

/-- A 1-bit pin level or button level (`BTN1`, 30_encoding.md R78: 1 = released, 0 = pressed). -/
abbrev Bit := BitVec 1

/-- A time value: `W` = 32 bits, unsigned (00_scope.md R4, 40_time_source.md R96). -/
abbrev Time := BitVec 32

/-- `SEG8`, one encoded digit value (30_encoding.md R74). -/
abbrev Seg8 := BitVec 8

/-- A pattern: four encoded digit values, digit 0 leftmost (20_memory.md R57, 30_encoding.md R76). -/
structure Pattern where
  d0 : Seg8
  d1 : Seg8
  d2 : Seg8
  d3 : Seg8
  deriving DecidableEq, Repr, Inhabited

/-- The four values of `DRIVE_STATE` (10_state.md R21). -/
inductive DriveState where
  | init
  | idle
  | hold
  | run
  deriving DecidableEq, Repr, Inhabited

end Sys2Proof
end

