-- ==== Sys2Proof/Syntax.lean ====
section
/-! DEFINITION. The operations: one constructor of `Instr` per row of spec/opcode_table.json, in the table's order; the
code words by which the table's formats select them; and what the environment presents. -/

namespace Sys2Proof

/-- The 38 rows of spec/opcode_table.json. -/
inductive Instr where
  /-- `RESET(b)`: power-on; `b` is the boot-time button level (70_reset_and_hazards.md R230). -/
  | reset (b : Bit)
  /-- `TICK`: one raw millisecond (40_time_source.md R90). -/
  | tick
  /-- `CYCLE(b)`: one pass of the main loop with button level `b` (44_state_machine.md R186). -/
  | cycle (b : Bit)
  /-- `FIRE`: one timer callback (41_step_pulse.md R112). -/
  | fire
  /-- `T_INIT_IDLE`, `sel = 00xx` (44_state_machine.md R166). -/
  | tInitIdle (sel : BitVec 4)
  /-- `T_IDLE_STAY`, `sel = 010x` (R167). -/
  | tIdleStay (sel : BitVec 4)
  /-- `T_IDLE_HOLD`, `sel = 011x` (R168). -/
  | tIdleHold (sel : BitVec 4)
  /-- `T_HOLD_STAY`, `sel = 100x` (R169). -/
  | tHoldStay (sel : BitVec 4)
  /-- `T_HOLD_RUN`, `sel = 101x` (R170). -/
  | tHoldRun (sel : BitVec 4)
  /-- `T_RUN_STAY`, `sel = 1100` (R171). -/
  | tRunStay (sel : BitVec 4)
  /-- `T_RUN_IDLE_EXP`, `sel = 1101` (R172). -/
  | tRunIdleExp (sel : BitVec 4)
  /-- `T_RUN_IDLE_BTN`, `sel = 111x` (R173). -/
  | tRunIdleBtn (sel : BitVec 4)
  /-- `ENC7_0` (42_display.md R125). -/
  | enc7_0
  /-- `ENC7_1` (R126). -/
  | enc7_1
  /-- `ENC7_2` (R127). -/
  | enc7_2
  /-- `ENC7_3` (R128). -/
  | enc7_3
  /-- `ENC7_4` (R129). -/
  | enc7_4
  /-- `ENC7_5` (R130). -/
  | enc7_5
  /-- `ENC7_6` (R131). -/
  | enc7_6
  /-- `ENC7_7` (R132). -/
  | enc7_7
  /-- `ENC7_8` (R133). -/
  | enc7_8
  /-- `ENC7_9` (R134). -/
  | enc7_9
  /-- `APPLY_IDLE` (44_state_machine.md R174). -/
  | applyIdle
  /-- `APPLY_HOLD` (R175). -/
  | applyHold
  /-- `APPLY_RUN` (R176); its operand `t` is the cycle's latched sample, for which the encoding has no bits. -/
  | applyRun
  /-- `GLYPH_IDLE` (42_display.md R135). -/
  | glyphIdle
  /-- `GLYPH_HOLD` (R135). -/
  | glyphHold
  /-- `NOW` (40_time_source.md R91). -/
  | now
  /-- `EXPIRED(t)` (R93). -/
  | expired (t : Time)
  /-- `REMAIN(t)` (R94). -/
  | remain (t : Time)
  /-- `STEP_INTERVAL` (41_step_pulse.md R110). -/
  | stepInterval
  /-- `COUNTDOWN(d)` (42_display.md R137). -/
  | countdown (d : Time)
  /-- `RENDER(p)` (R140). -/
  | render (p : Pattern)
  /-- `SAMPLE` (43_button.md R150). -/
  | sample
  /-- `EDGE(cur)` (R151). -/
  | edge (cur : Bit)
  /-- `BOOT_MODE(b)` (R152). -/
  | bootMode (b : Bit)
  /-- `NEXT(sel)` (44_state_machine.md R165). -/
  | nextState (sel : BitVec 4)
  /-- `RUN_REDRAW(t)` (R177). -/
  | runRedraw (t : Time)
  deriving DecidableEq, Repr

/-- A code word of one of the table's formats. The formats use overlapping bit patterns, so the format is part of the
code: it says which selector input the bits stand on (30_encoding.md R70, R86). -/
inductive Code where
  /-- `STIM8`, the stimulus word of an event (R79). -/
  | stim8 (w : BitVec 8)
  /-- `SEL4`, the transition selector (R72). -/
  | sel4 (w : BitVec 4)
  /-- `DIG4`, a decimal digit value (R75). -/
  | dig4 (w : BitVec 4)
  /-- `STATE2` of the target state, selecting an `APPLY` row (R86). -/
  | apply (w : BitVec 2)
  /-- `STATE2` of the target state, selecting a `GLYPH` row (R86). -/
  | glyph (w : BitVec 2)
  deriving DecidableEq, Repr

/-- What may fall between two numbered effects of an event (20_memory.md R62). -/
inductive Preempt where
  | tick
  | fire
  deriving DecidableEq, Repr, Inhabited

/-- One thing the environment presents: a code word, and for each gap between its effects what falls there. -/
structure Stimulus where
  code : Code
  gaps : List (List Preempt)
  deriving DecidableEq, Repr

/-- The events that may follow `RESET` (00_scope.md R8). -/
inductive EnvKind where
  | tick
  | cycle (b : Bit)
  | fire
  deriving DecidableEq, Repr, Inhabited

/-- An event the environment draws, with what falls into its gaps. -/
structure EnvEvent where
  kind : EnvKind
  gaps : List (List Preempt)
  deriving DecidableEq, Repr, Inhabited

/-- A stretch of events the environment draws at once; `level` is the button level of the cycle that
`Machine.fairRest` adds where the stretch has none. -/
structure EnvBlock where
  first : EnvEvent
  others : List EnvEvent
  level : Bit
  deriving DecidableEq, Repr, Inhabited

end Sys2Proof
end

