-- ==== Sys2Proof/Config.lean ====
section
/-! DEFINITION. The parameters of 00_scope.md R4 and the free values. A parameter the spec marks OPEN is an opaque
constant, so every theorem holds for each value the spec's constraints admit; a value the spec leaves unspecified is an
opaque function of the draw counter. -/

namespace Sys2Proof.Config

/-- `MAX_RUN_MS`: 50 minutes of logical time (00_scope.md R4). -/
def maxRunMs : Nat := 3000000

/-- `SENTINEL_MS`: the "clearly expired" threshold, 100 minutes (R4). -/
def sentinelMs : Nat := 6000000

/-- `NORMAL_FACTOR` (R4). -/
def normalFactor : Time := 1

/-- `BASE_US_PER_MICROSTEP` (R4). -/
def baseUsPerMicrostep : Nat := 100093

/-- `PULSE_WIDTH_US` (R4): real time, entering no state rule but the bound on `ACCEL_FACTOR` (R113). -/
def pulseWidthUs : Nat := 100

/-- `SEP_MASK` (R4); it is OR-ed into digit `SEP_POS` = 1. -/
def sepMask : Seg8 := 0x80

/-- `BLANK` (R4). -/
def blank : Pattern := ⟨0x00, 0x00, 0x00, 0x00⟩

/-- `STEP_ACTIVE` (R4). -/
def stepActive : Bit := 1

/-- `ACCEL_FACTOR` less 2: OPEN in `1 < ACCEL_FACTOR ≤ 991` (43_button.md R153). -/
opaque accelOffset : Fin 990

/-- `ACCEL_FACTOR`: an OPEN integer from 2 to 991 (43_button.md R153). -/
def accelFactor : Time := BitVec.ofNat 32 (accelOffset.val + 2)

/-- `DIR_LEVEL`: OPEN, 0 or 1 (R4). -/
opaque dirLevel : Bit

/-- `BRIGHTNESS`: OPEN, of unspecified width (R4, 20_memory.md R54). -/
opaque brightness : Nat

/-- `CYCLE_PERIOD_MS` less 1: OPEN (R4); the cadence has at least one `TICK` (70_reset_and_hazards.md R240). -/
opaque cyclePeriodOffset : Nat

/-- `CYCLE_PERIOD_MS`: OPEN, used by the trace notation only (30_encoding.md R81). -/
def cyclePeriodMs : Nat := cyclePeriodOffset + 1

/-- What an implementation supplies as `GLYPH_IDLE`: OPEN under 42_display.md R136, which
`Machine.glyphs` enforces. -/
opaque suppliedGlyphIdle : Pattern

/-- What an implementation supplies as `GLYPH_HOLD`: OPEN under R136, as above. -/
opaque suppliedGlyphHold : Pattern

/-- The default `GLYPH_IDLE` of R136, "IdLE". -/
def defaultGlyphIdle : Pattern := ⟨0x30, 0x5E, 0x38, 0x79⟩

/-- The default `GLYPH_HOLD` of R136, "HoLd". -/
def defaultGlyphHold : Pattern := ⟨0x76, 0x5C, 0x38, 0x5E⟩

/-- FREE VALUE: digit 0 of `COUNTDOWN` in the gap (42_display.md R139). -/
opaque freeSeg8 : Nat → Seg8

/-- FREE VALUE: `REMAIN` outside Run, where it is not defined (40_time_source.md R94). -/
opaque freeRemain : Nat → Time

/-- FREE VALUE: `STEP_INTERVAL` of a `FACTOR` of 0, which R153 excludes (41_step_pulse.md R110). -/
opaque intervalOfZero : Nat

/-- FREE VALUE: `RUN_DEADLINE` after power-on (10_state.md R24). -/
opaque unspecifiedDeadline : Nat → Time

/-- FREE VALUE: what the display shows between power-on and the first `DispWrite` (10_state.md R34). -/
opaque unspecifiedPhys : Nat → Pattern

/-- FREE VALUE: the environment's next stretch of events when nothing is queued (00_scope.md R8, R10), which
`Machine.fairRest` completes to one that has a `TICK` and a `CYCLE` (70_reset_and_hazards.md R247). -/
opaque envBlock : Nat → EnvBlock

end Sys2Proof.Config
end

