-- ==== Sys2Proof/WellFormed.lean ====
section
/-! DEFINITION. Well-formedness of an instruction: a transition row carries a selector that matches the row
(30_encoding.md R73). Every other operand admits all its values. -/

namespace Sys2Proof

/-- `sel` agrees with `pat` on the bits of `mask`. -/
def selMatches (mask pat sel : BitVec 4) : Bool := sel &&& mask == pat

/-- The match and mask column of 30_encoding.md R73. -/
def Instr.wf : Instr → Bool
  | .tInitIdle sel => selMatches 0xC 0x0 sel
  | .tIdleStay sel => selMatches 0xE 0x4 sel
  | .tIdleHold sel => selMatches 0xE 0x6 sel
  | .tHoldStay sel => selMatches 0xE 0x8 sel
  | .tHoldRun sel => selMatches 0xE 0xA sel
  | .tRunStay sel => selMatches 0xF 0xC sel
  | .tRunIdleExp sel => selMatches 0xF 0xD sel
  | .tRunIdleBtn sel => selMatches 0xE 0xE sel
  | .reset _ | .tick | .cycle _ | .fire => true
  | .enc7_0 | .enc7_1 | .enc7_2 | .enc7_3 | .enc7_4 => true
  | .enc7_5 | .enc7_6 | .enc7_7 | .enc7_8 | .enc7_9 => true
  | .applyIdle | .applyHold | .applyRun | .glyphIdle | .glyphHold => true
  | .now | .expired _ | .remain _ | .stepInterval | .countdown _ | .render _ => true
  | .sample | .edge _ | .bootMode _ | .nextState _ | .runRedraw _ => true

/-- The four events of 00_scope.md R8. -/
def Instr.isEvent : Instr → Bool
  | .reset _ | .tick | .cycle _ | .fire => true
  | .tInitIdle _ | .tIdleStay _ | .tIdleHold _ | .tHoldStay _ => false
  | .tHoldRun _ | .tRunStay _ | .tRunIdleExp _ | .tRunIdleBtn _ => false
  | .enc7_0 | .enc7_1 | .enc7_2 | .enc7_3 | .enc7_4 => false
  | .enc7_5 | .enc7_6 | .enc7_7 | .enc7_8 | .enc7_9 => false
  | .applyIdle | .applyHold | .applyRun | .glyphIdle | .glyphHold => false
  | .now | .expired _ | .remain _ | .stepInterval | .countdown _ | .render _ => false
  | .sample | .edge _ | .bootMode _ | .nextState _ | .runRedraw _ => false

/-- The rows of format `FUNC`, which no bit pattern selects (30_encoding.md R86). -/
def Instr.isFunc : Instr → Bool
  | .now | .expired _ | .remain _ | .stepInterval | .countdown _ | .render _ => true
  | .sample | .edge _ | .bootMode _ | .nextState _ | .runRedraw _ => true
  | .reset _ | .tick | .cycle _ | .fire => false
  | .tInitIdle _ | .tIdleStay _ | .tIdleHold _ | .tHoldStay _ => false
  | .tHoldRun _ | .tRunStay _ | .tRunIdleExp _ | .tRunIdleBtn _ => false
  | .enc7_0 | .enc7_1 | .enc7_2 | .enc7_3 | .enc7_4 => false
  | .enc7_5 | .enc7_6 | .enc7_7 | .enc7_8 | .enc7_9 => false
  | .applyIdle | .applyHold | .applyRun | .glyphIdle | .glyphHold => false

end Sys2Proof
end

