-- ==== Sys2Proof/Decode.lean ====
section
/-! DEFINITION. The decoder, total on every code word and refusing by name, and the encoder, both from the tables of
30_encoding.md; and the probe `decodeTableWord` on bare words. -/

namespace Sys2Proof

/-- Why a code word selects no row. -/
inductive DecodeError where
  /-- A `STIM8` word with `[5:1]` not 0, or `b` = 1 on `TICK` or `FIRE` (30_encoding.md R84). -/
  | reservedStimulus (w : BitVec 8)
  /-- A `DIG4` value 1010 to 1111: `SEG7` has no entry (R83). -/
  | noDigit (w : BitVec 4)
  /-- `STATE2` = 00: no `APPLY` row, since no transition targets `Init` (R86). -/
  | noApplyRow
  /-- `STATE2` = 00 or 11: no `GLYPH` row (R86 and 42_display.md R135). -/
  | noGlyphRow (w : BitVec 2)
  deriving DecidableEq, Repr

/-- `STATE2`, the code of a drive state (30_encoding.md R71). -/
def stateCode : DriveState → BitVec 2
  | .init => 0b00
  | .idle => 0b01
  | .hold => 0b10
  | .run => 0b11

/-- The drive state of a `STATE2` code; all four codes are legal (R71, R82). -/
def stateOfCode (c : BitVec 2) : DriveState :=
  if c = 0b00 then .init else if c = 0b01 then .idle else if c = 0b10 then .hold else .run

/-- A 1-bit field from a flag. -/
def bitOf (b : Bool) : Bit := if b then 1 else 0

/-- `SEL4 = {state, edge, exp}` (R72). -/
def selector (st : DriveState) (edge exp : Bool) : BitVec 4 :=
  (stateCode st ++ bitOf edge ++ bitOf exp : BitVec 4)

/-- The `state` field of a selector, bits 3:2. -/
def selState (sel : BitVec 4) : DriveState := stateOfCode (sel.extractLsb' 2 2)

/-- The `edge` field, bit 1. -/
def selEdge (sel : BitVec 4) : Bool := sel.getLsbD 1

/-- The `exp` field, bit 0. -/
def selExp (sel : BitVec 4) : Bool := sel.getLsbD 0

/-- `STIM8`: `kind` in 7:6, zeros in 5:1, `b` in 0 (30_encoding.md R79). -/
def stimWord (kind : BitVec 2) (b : Bit) : BitVec 8 := (kind ++ (0 : BitVec 5) ++ b : BitVec 8)

/-- `STIM8` (R79, R84). -/
def decodeStim8 (w : BitVec 8) : Except DecodeError Instr :=
  let kind : BitVec 2 := w.extractLsb' 6 2
  let reserved : BitVec 5 := w.extractLsb' 1 5
  let b : Bit := w.extractLsb' 0 1
  if reserved ≠ 0 then .error (.reservedStimulus w)
  else if kind = 0b00 then .ok (.reset b)
  else if kind = 0b10 then .ok (.cycle b)
  else if b ≠ 0 then .error (.reservedStimulus w)
  else if kind = 0b01 then .ok .tick
  else .ok .fire

/-- `SEL4`: each of the 16 values selects exactly one row (R73, R82). -/
def decodeSel4 (sel : BitVec 4) : Instr :=
  if sel &&& 0xC = 0x0 then .tInitIdle sel
  else if sel &&& 0xE = 0x4 then .tIdleStay sel
  else if sel &&& 0xE = 0x6 then .tIdleHold sel
  else if sel &&& 0xE = 0x8 then .tHoldStay sel
  else if sel &&& 0xE = 0xA then .tHoldRun sel
  else if sel = 0xC then .tRunStay sel
  else if sel = 0xD then .tRunIdleExp sel
  else .tRunIdleBtn sel

/-- `DIG4` (R75, R83). -/
def decodeDig4 (d : BitVec 4) : Except DecodeError Instr :=
  match d.toNat with
  | 0 => .ok .enc7_0
  | 1 => .ok .enc7_1
  | 2 => .ok .enc7_2
  | 3 => .ok .enc7_3
  | 4 => .ok .enc7_4
  | 5 => .ok .enc7_5
  | 6 => .ok .enc7_6
  | 7 => .ok .enc7_7
  | 8 => .ok .enc7_8
  | 9 => .ok .enc7_9
  | _ => .error (.noDigit d)

/-- The `APPLY` row of a target state (R86). -/
def decodeApply (c : BitVec 2) : Except DecodeError Instr :=
  match stateOfCode c with
  | .init => .error .noApplyRow
  | .idle => .ok .applyIdle
  | .hold => .ok .applyHold
  | .run => .ok .applyRun

/-- The `GLYPH` row of a target state (R86, 42_display.md R135). -/
def decodeGlyph (c : BitVec 2) : Except DecodeError Instr :=
  match stateOfCode c with
  | .idle => .ok .glyphIdle
  | .hold => .ok .glyphHold
  | .init | .run => .error (.noGlyphRow c)

/-- The decoder: total on every code word. -/
def decode : Code → Except DecodeError Instr
  | .stim8 w => decodeStim8 w
  | .sel4 w => .ok (decodeSel4 w)
  | .dig4 w => decodeDig4 w
  | .apply w => decodeApply w
  | .glyph w => decodeGlyph w

/-- The encoder: the code word of an instruction; none for a `FUNC` row, which no bit pattern selects (R86). -/
def encode : Instr → Option Code
  | .reset b => some (.stim8 (stimWord 0b00 b))
  | .tick => some (.stim8 (stimWord 0b01 0))
  | .cycle b => some (.stim8 (stimWord 0b10 b))
  | .fire => some (.stim8 (stimWord 0b11 0))
  | .tInitIdle sel => some (.sel4 sel)
  | .tIdleStay sel => some (.sel4 sel)
  | .tIdleHold sel => some (.sel4 sel)
  | .tHoldStay sel => some (.sel4 sel)
  | .tHoldRun sel => some (.sel4 sel)
  | .tRunStay sel => some (.sel4 sel)
  | .tRunIdleExp sel => some (.sel4 sel)
  | .tRunIdleBtn sel => some (.sel4 sel)
  | .enc7_0 => some (.dig4 0)
  | .enc7_1 => some (.dig4 1)
  | .enc7_2 => some (.dig4 2)
  | .enc7_3 => some (.dig4 3)
  | .enc7_4 => some (.dig4 4)
  | .enc7_5 => some (.dig4 5)
  | .enc7_6 => some (.dig4 6)
  | .enc7_7 => some (.dig4 7)
  | .enc7_8 => some (.dig4 8)
  | .enc7_9 => some (.dig4 9)
  | .applyIdle => some (.apply (stateCode .idle))
  | .applyHold => some (.apply (stateCode .hold))
  | .applyRun => some (.apply (stateCode .run))
  | .glyphIdle => some (.glyph (stateCode .idle))
  | .glyphHold => some (.glyph (stateCode .hold))
  | .now | .expired _ | .remain _ | .stepInterval | .countdown _ | .render _ => none
  | .sample | .edge _ | .bootMode _ | .nextState _ | .runRedraw _ => none

/-- The code word of a drawn event (00_scope.md R8). -/
def EnvKind.code : EnvKind → Code
  | .tick => .stim8 (stimWord 0b01 0)
  | .cycle b => .stim8 (stimWord 0b10 b)
  | .fire => .stim8 (stimWord 0b11 0)

/-- Which format a bare word of the opcode table is taken to have. A bare word does not say its format, and the formats
overlap (`STIM8`, `STATE2`, `DIG4` and `SEL4` all use the values 1 to 3), so the format with the fewest legal words that
admits the word is taken: `STIM8`, then `STATE2` of an `APPLY` row, then `DIG4`, then `SEL4`. The rule is the model's
(entry 3); the machine itself always has the format. -/
def tableCode (nbits w : Nat) : Option Code :=
  let v := w % 2 ^ nbits
  if 256 ≤ v then none
  else if v ≤ 1 then some (.stim8 (BitVec.ofNat 8 v))
  else if v ≤ 3 then some (.apply (BitVec.ofNat 2 v))
  else if v ≤ 9 then some (.dig4 (BitVec.ofNat 4 v))
  else if v ≤ 15 then some (.sel4 (BitVec.ofNat 4 v))
  else some (.stim8 (BitVec.ofNat 8 v))

/-- The instruction the decoder reads from a bare word of the opcode table, or none where it refuses. -/
def decodeTableWord (nbits w : Nat) : Option Instr :=
  match tableCode nbits w with
  | none => none
  | some c =>
    match decode c with
    | .ok i => some i
    | .error _ => none

end Sys2Proof
end

