-- ==== Sys2Proof/Machine/State.lean ====
section
/-! DEFINITION. The state: every register and pin of 10_state.md R20, the ghost counters and event history of R37, and
the model's own fields; the fault and refusal reasons; and the state after reset. -/

namespace Sys2Proof.Machine

/-- The output pins (20_memory.md R52). -/
inductive Pin where
  | step
  | dir
  | motorEnN
  deriving DecidableEq, Repr

/-- A call of one of the five interface primitives (20_memory.md R51 to R55). -/
inductive IfaceEvent where
  /-- `PinRead(BTN_N)` returned `v` (R51). -/
  | pinRead (v : Bit)
  /-- `PinWrite(pin, v)` (R52). -/
  | pinWrite (pin : Pin) (v : Bit)
  /-- `DispWrite(p)` (R53). -/
  | dispWrite (p : Pattern)
  /-- `DispBrightness(v)` (R54). -/
  | dispBrightness (v : Nat)
  /-- `TimerStart(us)` (R55). -/
  | timerStart (us : Nat)
  deriving DecidableEq, Repr

/-- The per-cycle signals of 10_state.md R36 and the results of the encoder and pattern functions. They are the model's
own: while an event runs they hold what R186 computes, and a `CYCLE` discards them at its end. -/
structure Signals where
  /-- the sampled level -/
  cur : Bit
  /-- the press-edge -/
  edge : Bool
  /-- the time sample -/
  t : Time
  /-- deadline reached -/
  exp : Bool
  /-- the next state -/
  next : DriveState
  /-- the remaining duration -/
  rem : Time
  /-- the result of `ENC7` -/
  seg : Seg8
  /-- the result of `COUNTDOWN` or `GLYPH` -/
  pat : Pattern
  deriving DecidableEq, Repr

/-- No signal latched. -/
def Signals.none : Signals :=
  { cur := 0, edge := false, t := 0, exp := false, next := .init, rem := 0, seg := 0, pat := Config.blank }

/-- The machine's state. -/
@[ext]
structure State where
  /-- `DRIVE_STATE` (10_state.md R21) -/
  driveState : DriveState
  /-- `STEPPING_EN` (R22) -/
  steppingEn : Bool
  /-- `MOTOR_EN` (R23); the pin `MOTOR_EN_N` is `State.motorEnN` -/
  motorEn : Bool
  /-- `RUN_DEADLINE` (R24) -/
  runDeadline : Time
  /-- `FACTOR` (R25) -/
  factor : Time
  /-- `RAW_MS` (R26) -/
  rawMs : Time
  /-- `PREV_BTN` (R27) -/
  prevBtn : Bit
  /-- `DISP[0..3]` (R28) -/
  disp : Pattern
  /-- `LAST[0..3]` (R29) -/
  last : Pattern
  /-- `STEP_INTERVAL_US` (R30) -/
  stepIntervalUs : Nat
  /-- `STEP`, output pin (R31) -/
  stepPin : Bit
  /-- `DIR`, output pin (R32) -/
  dir : Bit
  /-- `BTN_N`, input pin: the level the environment presents (R33) -/
  btnN : Bit
  /-- `PHYS[0..3]`, what the display shows (R34) -/
  phys : Pattern
  /-- `PULSING` (R35) -/
  pulsing : Bool
  /-- `WRITE_COUNT`, ghost (R37) -/
  writeCount : Nat
  /-- `STEP_COUNT`, ghost (R37) -/
  stepCount : Nat
  /-- the event history of R37, newest first, ghost -/
  history : List IfaceEvent
  /-- the mark of 93_implementation_defined.md U1: `HORIZON` has failed since `RESET` -/
  pastHorizon : Bool
  /-- the per-cycle signals (R36), the model's own -/
  sig : Signals
  /-- how many free values have been drawn, the model's own -/
  draws : Nat
  /-- what the environment still presents, the model's own -/
  queue : List Stimulus
  /-- what falls into the gaps of the event under way, the model's own -/
  gaps : List (List Preempt)
  deriving DecidableEq, Repr

/-- The hardware raises no fault and no operation stops (60_exceptions.md R200, 20_memory.md R66): there is no reason. -/
inductive Fault where
  deriving DecidableEq, Repr

/-- Why a step has no meaning. -/
inductive Refusal where
  /-- Raised by an arm of `exec` whose instruction has no meaning yet; there is none. Safe: the run stops. -/
  | notModelled (mnemonic : String)
  /-- Raised by `step` where the code word presented selects no row, with the decoder's reason (30_encoding.md R83, R84,
  R86). Safe: the run stops, and the hardware never meets such a word. -/
  | undecodable (e : DecodeError)
  deriving DecidableEq, Repr

/-- What a meaning answers. -/
abbrev Result := Host.Outcome State Fault Refusal

/-- The level of the pin `MOTOR_EN_N` = 1 - `MOTOR_EN` (10_state.md R23). -/
def State.motorEnN (s : State) : Bit := if s.motorEn then 0 else 1

/-- The machine right after `RESET(1)`: power-on with the button released (70_reset_and_hazards.md R230, R231). The
history holds the calls of the boot sequence, newest first. The free values of this power-on are those numbered 0 and are
counted as drawn, so that a later power-on takes others, of which nothing says whether they are the same (DESIGN CHOICE,
entries 5, 6, 24). -/
def State.reset : State :=
  { driveState := .init
    steppingEn := false
    motorEn := false
    runDeadline := Config.unspecifiedDeadline 0
    factor := 1
    rawMs := 0
    prevBtn := 1
    disp := ⟨0, 0, 0, 0⟩
    last := ⟨0, 0, 0, 0⟩
    stepIntervalUs := 100093
    stepPin := 0
    dir := Config.dirLevel
    btnN := 1
    phys := Config.unspecifiedPhys 0
    pulsing := false
    writeCount := 0
    stepCount := 0
    history :=
      [.timerStart 100093, .dispBrightness Config.brightness, .pinRead 1,
       .pinWrite .motorEnN 1, .pinWrite .dir Config.dirLevel, .pinWrite .step 0]
    pastHorizon := false
    sig := Signals.none
    draws := 1
    queue := []
    gaps := [] }

end Sys2Proof.Machine
end

