-- ==== Sys2Proof/Machine/Flags.lean ====
section
/-! DEFINITION. Every test and flag the control cycle computes: the press-edge, the deadline test, the transition
function, the horizon and the gap of the countdown. -/

namespace Sys2Proof.Machine

/-- `EDGE`: released at the previous poll, pressed at this one (43_button.md R151). -/
def pressEdge (prev cur : Bit) : Bool := prev == 1 && cur == 0

/-- `EXPIRED`: `t >=u RUN_DEADLINE` (40_time_source.md R93). -/
def deadlineReached (t deadline : Time) : Bool := decide (deadline ≤ t)

/-- `NEXT`, the transition function (44_state_machine.md R165). -/
def nextOf (st : DriveState) (edge exp : Bool) : DriveState :=
  match st with
  | .init => .idle
  | .idle => if edge then .hold else .idle
  | .hold => if edge then .run else .hold
  | .run => if edge || exp then .idle else .run

/-- `HORIZON`, in unbounded integers (40_time_source.md R97). -/
def inHorizon (rawMs factor : Time) : Bool :=
  decide (rawMs.toNat * factor.toNat + Config.maxRunMs < 2 ^ 32)

/-- The gap of the countdown renderer, 5,999,001 to 5,999,999 (42_display.md R139). -/
def inGap (d : Time) : Bool := decide (5999000 < d.toNat ∧ d.toNat < Config.sentinelMs)

end Sys2Proof.Machine
end

