-- ==== Sys2Proof/Machine/Operands.lean ====
section
/-! DEFINITION. The values the operations compute: logical time, remaining time, the step interval, the boot-time factor,
digit codes, glyphs and countdown patterns. -/

namespace Sys2Proof.Machine

/-- `NOW`: `RAW_MS *w FACTOR` (40_time_source.md R91). -/
def logicalNow (rawMs factor : Time) : Time := rawMs * factor

/-- `REMAIN`: `RUN_DEADLINE -w t` (R94). -/
def remaining (deadline t : Time) : Time := deadline - t

/-- `MAX_RUN_MS` as a time value. -/
def fullRun : Time := BitVec.ofNat 32 Config.maxRunMs

/-- The deadline armed on entry to Run: `t +w MAX_RUN_MS` (44_state_machine.md R176). -/
def deadlineFrom (t : Time) : Time := t + fullRun

/-- `BOOT_MODE`: pressed selects the accelerated factor (43_button.md R152). -/
def bootFactor (b : Bit) : Time := if b = 0 then Config.accelFactor else Config.normalFactor

/-- `STEP_INTERVAL`: floor division by `FACTOR` (41_step_pulse.md R110); a `FACTOR` of 0, which R153 of 43_button.md
excludes, gives a free value. -/
def stepIntervalOf (factor : Time) : Nat :=
  if factor = 0 then Config.intervalOfZero else Config.baseUsPerMicrostep / factor.toNat

/-- `ENC7`: the segment code of a decimal digit (42_display.md R125 to R134). -/
def enc7 (d : Fin 10) : Seg8 :=
  match d with
  | 0 => 0x3F
  | 1 => 0x06
  | 2 => 0x5B
  | 3 => 0x4F
  | 4 => 0x66
  | 5 => 0x6D
  | 6 => 0x7D
  | 7 => 0x07
  | 8 => 0x7F
  | 9 => 0x6F

/-- A decimal digit value in `DIG4` (30_encoding.md R77, R83). -/
def digit (n : Nat) : Fin 10 := Fin.ofNat 10 n

/-- `MM:SS` as a pattern, the separator on digit 1 (30_encoding.md R77); `free` is digit 0 where the minutes have three
digits (42_display.md R139). -/
def mmss (free : Seg8) (mm ss : Nat) : Pattern :=
  { d0 := if mm / 10 < 10 then enc7 (digit (mm / 10)) else free
    d1 := enc7 (digit (mm % 10)) ||| Config.sepMask
    d2 := enc7 (digit (ss / 10))
    d3 := enc7 (digit (ss % 10)) }

/-- `COUNTDOWN`: a duration, rounded up to whole seconds, as a pattern (42_display.md R137). -/
def countdownOf (free : Seg8) (d : Time) : Pattern :=
  if Config.sentinelMs ≤ d.toNat then mmss free 0 0
  else
    let r := (d.toNat + 999) / 1000
    mmss free (r / 60) (r % 60)

/-- The ten digit codes, in order (30_encoding.md R75). -/
def digitCodes : List Seg8 := (List.range 10).map fun n => enc7 (digit n)

/-- A countdown pattern: digits `a`, `b` with separator, `c` in 0..5, `e` (42_display.md R138). -/
def isCountdown (p : Pattern) : Bool :=
  digitCodes.contains p.d0 && (digitCodes.map (· ||| Config.sepMask)).contains p.d1 &&
    (digitCodes.take 6).contains p.d2 && digitCodes.contains p.d3

/-- The three constraints on the glyphs (42_display.md R136). -/
def glyphsLegal (idle hold : Pattern) : Bool :=
  idle != hold && idle != Config.blank && !isCountdown idle && !isCountdown hold

/-- The glyphs in use: what the implementation supplies where it meets R136, else the defaults of R136. Every legal pair
is one of its values. -/
def glyphs : Pattern × Pattern :=
  if glyphsLegal Config.suppliedGlyphIdle Config.suppliedGlyphHold then
    (Config.suppliedGlyphIdle, Config.suppliedGlyphHold)
  else (Config.defaultGlyphIdle, Config.defaultGlyphHold)

/-- `GLYPH_IDLE` (42_display.md R135). -/
def glyphIdle : Pattern := glyphs.1

/-- `GLYPH_HOLD` (R135). -/
def glyphHold : Pattern := glyphs.2

/-- One digit of a pattern by its 2-bit position (20_memory.md R50, R57). -/
def patternDigit (p : Pattern) (i : Fin 4) : Seg8 :=
  match i with
  | 0 => p.d0
  | 1 => p.d1
  | 2 => p.d2
  | 3 => p.d3

/-- `PAT32`: digit 0 in bits 31:24 (30_encoding.md R76). -/
def packPattern (p : Pattern) : BitVec 32 := (p.d0 ++ p.d1 ++ p.d2 ++ p.d3 : BitVec 32)

/-- The pattern of a `PAT32` word (R76). -/
def unpackPattern (w : BitVec 32) : Pattern :=
  ⟨w.extractLsb' 24 8, w.extractLsb' 16 8, w.extractLsb' 8 8, w.extractLsb' 0 8⟩

end Sys2Proof.Machine
end

