-- ==== Sys2Proof/Machine/Ops.lean ====
section
/-! DEFINITION. The named operations over the registers, the five interface primitives (20_memory.md R51 to R55), the
effects of the agents that may preempt (`TICK`, `FIRE`), and the renderer. There is no exception to take or return from
(60_exceptions.md R200); the one interrupt's handler is `firePulse` (R203, R207). -/

namespace Sys2Proof.Machine

/-! ## Interface primitives -/

/-- Adds a call to the event history (10_state.md R37). -/
def note (e : IfaceEvent) (s : State) : State := { s with history := e :: s.history }

/-- `PinWrite(pin, v)`; writing `MOTOR_EN_N` sets `MOTOR_EN` = 1 - v (20_memory.md R52). -/
def pinWrite (pin : Pin) (v : Bit) (s : State) : State :=
  match pin with
  | .step => note (.pinWrite .step v) { s with stepPin := v }
  | .dir => note (.pinWrite .dir v) { s with dir := v }
  | .motorEnN => note (.pinWrite .motorEnN v) { s with motorEn := v == 0 }

/-- The environment puts `BTN_N` at a level (10_state.md R33). -/
def presentButton (b : Bit) (s : State) : State := { s with btnN := b }

/-- `cur <- PinRead(BTN_N)` (20_memory.md R51, 43_button.md R150). -/
def samplePin (s : State) : State :=
  note (.pinRead s.btnN) { s with sig := { s.sig with cur := s.btnN } }

/-- `DispWrite(p)`: `PHYS <- p`, `WRITE_COUNT <- WRITE_COUNT + 1` (20_memory.md R53). -/
def dispWrite (p : Pattern) (s : State) : State :=
  note (.dispWrite p) { s with phys := p, writeCount := s.writeCount + 1 }

/-- `DispBrightness(v)`: no effect on the block or on `PHYS` (R54). -/
def dispBrightness (v : Nat) (s : State) : State := note (.dispBrightness v) s

/-- `TimerStart(us)` (R55). -/
def timerStart (us : Nat) (s : State) : State := note (.timerStart us) s

/-! ## The clock and the timer callback -/

/-- `TICK`: `RAW_MS <- RAW_MS +w 1` (40_time_source.md R90); marks a run that leaves the horizon (U1). -/
def tickOnce (s : State) : State :=
  { s with
    rawMs := s.rawMs + 1
    pastHorizon := s.pastHorizon || !inHorizon (s.rawMs + 1) s.factor }

/-- `STEP <- 1 ; PULSING <- 1` (41_step_pulse.md R112). -/
def assertStep (s : State) : State := pinWrite .step Config.stepActive { s with pulsing := true }

/-- `STEP <- 0 ; PULSING <- 0 ; STEP_COUNT <- STEP_COUNT + 1` (R112). -/
def deassertStep (s : State) : State :=
  pinWrite .step 0 { s with pulsing := false, stepCount := s.stepCount + 1 }

/-- The handler where nothing falls into its pulse-width hold: one read of `STEPPING_EN`, then a pulse or nothing
(R112). -/
def firePulse (s : State) : State := if s.steppingEn then deassertStep (assertStep s) else s

/-- What falls into a gap (20_memory.md R62). -/
def runPreempt (s : State) (e : Preempt) : State :=
  match e with
  | .tick => tickOnce s
  | .fire => firePulse s

/-- A gap between two effects: whatever the environment lets fall there happens, in its order (20_memory.md R61, R62,
60_exceptions.md R207). -/
def preemptPoint (s : State) : State :=
  match s.gaps with
  | [] => s
  | g :: rest => g.foldl runPreempt { s with gaps := rest }

/-- What the environment placed beyond an event's last gap falls after the event. -/
def drainGaps (s : State) : State := s.gaps.flatten.foldl runPreempt { s with gaps := [] }

/-- The pulse-width hold of a `FIRE`: `TICK`s may fall into it; a firing there is missed, with no retry (41_step_pulse.md
R113), and the main loop does not run (60_exceptions.md R206). -/
def holdPoint (s : State) : State :=
  match s.gaps with
  | [] => s
  | g :: rest => (g.filter (· == .tick)).foldl runPreempt { s with gaps := rest }

/-- `FIRE` as an event of its own (R112). -/
def fireEvent (s : State) : State :=
  if s.steppingEn then deassertStep (holdPoint (assertStep s)) else s

/-! ## The main loop's registers -/

/-- `MOTOR_EN <- v`, a `PinWrite(MOTOR_EN_N, 1 - v)` (10_state.md R23, 20_memory.md R52). -/
def setMotorEn (v : Bool) (s : State) : State := pinWrite .motorEnN (if v then 0 else 1) s

/-- `STEPPING_EN <- v`, one indivisible write (10_state.md R22, 20_memory.md R60). -/
def setSteppingEn (v : Bool) (s : State) : State := { s with steppingEn := v }

/-- `RUN_DEADLINE <- d` (10_state.md R24). -/
def armDeadline (d : Time) (s : State) : State := { s with runDeadline := d }

/-- `DRIVE_STATE <- st` (10_state.md R21). -/
def setDriveState (st : DriveState) (s : State) : State := { s with driveState := st }

/-- `PREV_BTN <- cur` (43_button.md R154). -/
def keepButton (s : State) : State := { s with prevBtn := s.sig.cur }

/-! ## The per-cycle signals -/

/-- `edge <- EDGE(cur)` (43_button.md R151). -/
def latchEdge (cur : Bit) (s : State) : State :=
  { s with sig := { s.sig with edge := pressEdge s.prevBtn cur } }

/-- `t <- NOW()` (40_time_source.md R91, R92). -/
def latchTime (s : State) : State :=
  { s with sig := { s.sig with t := logicalNow s.rawMs s.factor } }

/-- `exp <- EXPIRED(t)` in Run, 0 elsewhere without reading `RUN_DEADLINE` (40_time_source.md R93, D30). -/
def latchExpired (t : Time) (s : State) : State :=
  { s with sig := { s.sig with exp := s.driveState == .run && deadlineReached t s.runDeadline } }

/-- `next <- NEXT(sel)` (44_state_machine.md R165). -/
def latchNext (sel : BitVec 4) (s : State) : State :=
  { s with sig := { s.sig with next := nextOf (selState sel) (selEdge sel) (selExp sel) } }

/-- `rem <- REMAIN(t)`; outside Run it is not defined, and a free value is drawn (40_time_source.md R94). -/
def latchRemain (t : Time) (s : State) : State :=
  if s.driveState = .run then { s with sig := { s.sig with rem := remaining s.runDeadline t } }
  else
    { s with
      sig := { s.sig with rem := Config.freeRemain s.draws }
      draws := s.draws + 1 }

/-- The result of `ENC7`. -/
def latchSeg (v : Seg8) (s : State) : State := { s with sig := { s.sig with seg := v } }

/-- The result of `COUNTDOWN` or `GLYPH`. -/
def latchPattern (p : Pattern) (s : State) : State := { s with sig := { s.sig with pat := p } }

/-- The per-cycle signals are discarded (10_state.md R36). -/
def discardSignals (s : State) : State := { s with sig := Signals.none }

/-- `SEL4` as the cycle forms it (30_encoding.md R72). -/
def selectorOf (s : State) : BitVec 4 := selector s.driveState s.sig.edge s.sig.exp

/-! ## The display -/

/-- `COUNTDOWN(d)`, its digit 0 in the gap drawn (42_display.md R137, R139). -/
def countdownAt (d : Time) (s : State) : Pattern := countdownOf (Config.freeSeg8 s.draws) d

/-- Counts the free value that `countdownAt` used in the gap. -/
def countDraw (d : Time) (s : State) : State := if inGap d then { s with draws := s.draws + 1 } else s

/-- `DISP <- p` (42_display.md R140). -/
def requestPattern (p : Pattern) (s : State) : State := { s with disp := p }

/-- `LAST <- DISP` (R140). -/
def keepPattern (s : State) : State := { s with last := s.disp }

/-- `RENDER(p)`: the display is written only where the request differs from the last pattern written (42_display.md
R140). -/
def renderPattern (p : Pattern) (s : State) : State :=
  let s := preemptPoint (requestPattern p s)
  if s.disp ≠ s.last then keepPattern (preemptPoint (dispWrite s.disp s)) else s

/-- `RENDER(COUNTDOWN(d))`. -/
def renderCountdown (d : Time) (s : State) : State := renderPattern (countdownAt d s) (countDraw d s)

/-! ## Configuration -/

/-- `FACTOR <- BOOT_MODE(b)` (43_button.md R152). -/
def setBootMode (b : Bit) (s : State) : State := { s with factor := bootFactor b }

/-- `STEP_INTERVAL_US <- STEP_INTERVAL()` (41_step_pulse.md R110). -/
def setStepInterval (s : State) : State := { s with stepIntervalUs := stepIntervalOf s.factor }

/-! ## Entry actions and transitions (44_state_machine.md) -/

/-- `APPLY_IDLE` (R174), effects in the order of the source's list. -/
def enterIdle (s : State) : State :=
  let s := preemptPoint (renderPattern glyphIdle s)
  let s := preemptPoint (setMotorEn false s)
  setSteppingEn false s

/-- `APPLY_HOLD` (R175). -/
def enterHold (s : State) : State :=
  let s := preemptPoint (renderPattern glyphHold s)
  let s := preemptPoint (setMotorEn true s)
  setSteppingEn false s

/-- `APPLY_RUN(t)` (R176). -/
def enterRun (t : Time) (s : State) : State :=
  let s := preemptPoint (renderCountdown fullRun s)
  let s := preemptPoint (setMotorEn true s)
  let s := preemptPoint (setSteppingEn true s)
  armDeadline (deadlineFrom t) s

/-- The entry actions of a target state; `Init`, which no transition targets, has none (30_encoding.md R86). -/
def applyEntry (target : DriveState) (t : Time) (s : State) : State :=
  match target with
  | .init => s
  | .idle => enterIdle s
  | .hold => enterHold s
  | .run => enterRun t s

/-- Steps 6a and 6b of R186: the entry actions, then `DRIVE_STATE`. -/
def changeState (target : DriveState) (t : Time) (s : State) : State :=
  setDriveState target (preemptPoint (applyEntry target t s))

/-- `RUN_REDRAW(t)` (R177). -/
def redrawRun (t : Time) (s : State) : State :=
  let s := latchRemain t s
  renderCountdown s.sig.rem s

/-- Step 8 of R186 (43_button.md R154). -/
def endCycle (s : State) : State := keepButton (preemptPoint s)

/-- Steps 1 to 5 of R186: sample, edge, time, deadline, next state. -/
def senseCycle (b : Bit) (s : State) : State :=
  let s := preemptPoint (samplePin (presentButton b s))
  let s := preemptPoint (latchEdge s.sig.cur s)
  let s := preemptPoint (latchTime s)
  let s := preemptPoint (latchExpired s.sig.t s)
  preemptPoint (latchNext (selectorOf s) s)

/-- Steps 6 and 7 of R186: apply a change of state once, or redraw in Run. -/
def actCycle (s : State) : State :=
  if s.sig.next ≠ s.driveState then changeState s.sig.next s.sig.t s
  else if s.driveState = .run then redrawRun s.sig.t s
  else s

/-- `CYCLE(b)`, steps 1 to 8 of R186. -/
def runCycle (b : Bit) (s : State) : State := discardSignals (endCycle (actCycle (senseCycle b s)))

/-! ## Power-on (70_reset_and_hazards.md) -/

/-- Every register at its reset value (R230); what the spec leaves unspecified is drawn afresh at each power-on (DESIGN
CHOICE, entries 5, 6, 24). The environment's queue is no register and stays. -/
def powerOnRegisters (b : Bit) (s : State) : State :=
  { driveState := .init
    steppingEn := false
    motorEn := false
    runDeadline := Config.unspecifiedDeadline s.draws
    factor := Config.normalFactor
    rawMs := 0
    prevBtn := 1
    disp := Config.blank
    last := Config.blank
    stepIntervalUs := Config.baseUsPerMicrostep
    stepPin := 0
    dir := Config.dirLevel
    btnN := b
    phys := Config.unspecifiedPhys s.draws
    pulsing := false
    writeCount := 0
    stepCount := 0
    history := []
    pastHorizon := false
    sig := Signals.none
    draws := s.draws + 1
    queue := s.queue
    gaps := s.gaps }

/-- The boot sequence, steps 1 to 6 of R231; the boot sample is not kept in `PREV_BTN` (43_button.md R152). -/
def bootSequence (s : State) : State :=
  let s := pinWrite .motorEnN 1 (pinWrite .dir Config.dirLevel (pinWrite .step 0 s))
  let s := samplePin s
  let s := setBootMode s.sig.cur s
  let s := setStepInterval s
  let s := dispBrightness Config.brightness s
  let s := timerStart s.stepIntervalUs s
  discardSignals s

/-- `RESET(b)` (R230). -/
def powerOn (b : Bit) (s : State) : State := bootSequence (powerOnRegisters b s)

end Sys2Proof.Machine
end

