-- ==== Sys2Proof/Machine/Boot.lean ====
section
/-! DEFINITION. Power-on (70_reset_and_hazards.md). -/

namespace Sys2Proof.Machine

/-- `RESET(b)` (R230, R231). -/
def execReset (b : Bit) (s : State) : Result := .next (powerOn b s)

end Sys2Proof.Machine
end

