-- ==== Sys2Proof/Machine/Button.lean ====
section
/-! DEFINITION. The button, its debounce and the boot-time mode selection (43_button.md). -/

namespace Sys2Proof.Machine

/-- `SAMPLE` (R150): the present level of `BTN_N`. -/
def execSample (s : State) : Result := .next (samplePin s)

/-- `EDGE(cur)` (R151). -/
def execEdge (cur : Bit) (s : State) : Result := .next (latchEdge cur s)

/-- `BOOT_MODE(b)` (R152). -/
def execBootMode (b : Bit) (s : State) : Result := .next (setBootMode b s)

end Sys2Proof.Machine
end

