-- ==== Sys2Proof/Machine/Control.lean ====
section
/-! DEFINITION. State transition and deadline logic (44_state_machine.md). A transition row is what a `CYCLE` does from
step 6 of R186 on, once the selector has been formed: it takes the latched sample `t` and level `cur`. -/

namespace Sys2Proof.Machine

/-- `NEXT(sel)` (R165). -/
def execNextState (sel : BitVec 4) (s : State) : Result := .next (latchNext sel s)

/-- `T_INIT_IDLE` (R166). -/
def execTInitIdle (s : State) : Result := .next (endCycle (changeState .idle s.sig.t s))

/-- `T_IDLE_STAY` (R167): only `PREV_BTN`. -/
def execTIdleStay (s : State) : Result := .next (endCycle s)

/-- `T_IDLE_HOLD` (R168). -/
def execTIdleHold (s : State) : Result := .next (endCycle (changeState .hold s.sig.t s))

/-- `T_HOLD_STAY` (R169): only `PREV_BTN`. -/
def execTHoldStay (s : State) : Result := .next (endCycle s)

/-- `T_HOLD_RUN` (R170). -/
def execTHoldRun (s : State) : Result := .next (endCycle (changeState .run s.sig.t s))

/-- `T_RUN_STAY` (R171): redraw. -/
def execTRunStay (s : State) : Result := .next (endCycle (redrawRun s.sig.t s))

/-- `T_RUN_IDLE_EXP` (R172). -/
def execTRunIdleExp (s : State) : Result := .next (endCycle (changeState .idle s.sig.t s))

/-- `T_RUN_IDLE_BTN` (R173). -/
def execTRunIdleBtn (s : State) : Result := .next (endCycle (changeState .idle s.sig.t s))

/-- `APPLY_IDLE` (R174). -/
def execApplyIdle (s : State) : Result := .next (enterIdle s)

/-- `APPLY_HOLD` (R175). -/
def execApplyHold (s : State) : Result := .next (enterHold s)

/-- `APPLY_RUN(t)` (R176), `t` the cycle's latched sample. -/
def execApplyRun (s : State) : Result := .next (enterRun s.sig.t s)

/-- `RUN_REDRAW(t)` (R177). -/
def execRunRedraw (t : Time) (s : State) : Result := .next (redrawRun t s)

/-- `CYCLE(b)` (R186). -/
def execCycle (b : Bit) (s : State) : Result := .next (runCycle b s)

end Sys2Proof.Machine
end

