-- ==== Sys2Proof/Machine/Display.lean ====
section
/-! DEFINITION. The 7-segment encoder and renderer (42_display.md). -/

namespace Sys2Proof.Machine

/-- `ENC7_0` (R125). -/
def execEnc7_0 (s : State) : Result := .next (latchSeg (enc7 0) s)

/-- `ENC7_1` (R126). -/
def execEnc7_1 (s : State) : Result := .next (latchSeg (enc7 1) s)

/-- `ENC7_2` (R127). -/
def execEnc7_2 (s : State) : Result := .next (latchSeg (enc7 2) s)

/-- `ENC7_3` (R128). -/
def execEnc7_3 (s : State) : Result := .next (latchSeg (enc7 3) s)

/-- `ENC7_4` (R129). -/
def execEnc7_4 (s : State) : Result := .next (latchSeg (enc7 4) s)

/-- `ENC7_5` (R130). -/
def execEnc7_5 (s : State) : Result := .next (latchSeg (enc7 5) s)

/-- `ENC7_6` (R131). -/
def execEnc7_6 (s : State) : Result := .next (latchSeg (enc7 6) s)

/-- `ENC7_7` (R132). -/
def execEnc7_7 (s : State) : Result := .next (latchSeg (enc7 7) s)

/-- `ENC7_8` (R133). -/
def execEnc7_8 (s : State) : Result := .next (latchSeg (enc7 8) s)

/-- `ENC7_9` (R134). -/
def execEnc7_9 (s : State) : Result := .next (latchSeg (enc7 9) s)

/-- `GLYPH_IDLE` (R135). -/
def execGlyphIdle (s : State) : Result := .next (latchPattern glyphIdle s)

/-- `GLYPH_HOLD` (R135). -/
def execGlyphHold (s : State) : Result := .next (latchPattern glyphHold s)

/-- `COUNTDOWN(d)` (R137, R139). -/
def execCountdown (d : Time) (s : State) : Result := .next (latchPattern (countdownAt d s) (countDraw d s))

/-- `RENDER(p)` (R140). -/
def execRender (p : Pattern) (s : State) : Result := .next (renderPattern p s)

end Sys2Proof.Machine
end

