-- ==== Sys2Proof/Machine/StepPulse.lean ====
section
/-! DEFINITION. The step pulse generator (41_step_pulse.md). -/

namespace Sys2Proof.Machine

/-- `FIRE` (R112). -/
def execFire (s : State) : Result := .next (fireEvent s)

/-- `STEP_INTERVAL` (R110). -/
def execStepInterval (s : State) : Result := .next (setStepInterval s)

end Sys2Proof.Machine
end

