-- ==== Sys2Proof/Machine/Time.lean ====
section
/-! DEFINITION. The time source family (40_time_source.md). -/

namespace Sys2Proof.Machine

/-- `TICK` (R90). -/
def execTick (s : State) : Result := .next (tickOnce s)

/-- `NOW` (R91): the logical clock into the cycle's time sample. -/
def execNow (s : State) : Result := .next (latchTime s)

/-- `EXPIRED(t)` (R93). -/
def execExpired (t : Time) (s : State) : Result := .next (latchExpired t s)

/-- `REMAIN(t)` (R94). -/
def execRemain (t : Time) (s : State) : Result := .next (latchRemain t s)

end Sys2Proof.Machine
end

