-- ==== Sys2Proof/Machine/Dispatch.lean ====
section
/-! DEFINITION. One arm per row of spec/opcode_table.json. -/

namespace Sys2Proof.Machine

def exec (i : Instr) (s : State) : Host.Outcome State Fault Refusal :=
  match i with
  | .reset b => Sys2Proof.Machine.execReset b s
  | .tick => Sys2Proof.Machine.execTick s
  | .cycle b => Sys2Proof.Machine.execCycle b s
  | .fire => Sys2Proof.Machine.execFire s
  | .tInitIdle _ => Sys2Proof.Machine.execTInitIdle s
  | .tIdleStay _ => Sys2Proof.Machine.execTIdleStay s
  | .tIdleHold _ => Sys2Proof.Machine.execTIdleHold s
  | .tHoldStay _ => Sys2Proof.Machine.execTHoldStay s
  | .tHoldRun _ => Sys2Proof.Machine.execTHoldRun s
  | .tRunStay _ => Sys2Proof.Machine.execTRunStay s
  | .tRunIdleExp _ => Sys2Proof.Machine.execTRunIdleExp s
  | .tRunIdleBtn _ => Sys2Proof.Machine.execTRunIdleBtn s
  | .enc7_0 => Sys2Proof.Machine.execEnc7_0 s
  | .enc7_1 => Sys2Proof.Machine.execEnc7_1 s
  | .enc7_2 => Sys2Proof.Machine.execEnc7_2 s
  | .enc7_3 => Sys2Proof.Machine.execEnc7_3 s
  | .enc7_4 => Sys2Proof.Machine.execEnc7_4 s
  | .enc7_5 => Sys2Proof.Machine.execEnc7_5 s
  | .enc7_6 => Sys2Proof.Machine.execEnc7_6 s
  | .enc7_7 => Sys2Proof.Machine.execEnc7_7 s
  | .enc7_8 => Sys2Proof.Machine.execEnc7_8 s
  | .enc7_9 => Sys2Proof.Machine.execEnc7_9 s
  | .applyIdle => Sys2Proof.Machine.execApplyIdle s
  | .applyHold => Sys2Proof.Machine.execApplyHold s
  | .applyRun => Sys2Proof.Machine.execApplyRun s
  | .glyphIdle => Sys2Proof.Machine.execGlyphIdle s
  | .glyphHold => Sys2Proof.Machine.execGlyphHold s
  | .now => Sys2Proof.Machine.execNow s
  | .expired t => Sys2Proof.Machine.execExpired t s
  | .remain t => Sys2Proof.Machine.execRemain t s
  | .stepInterval => Sys2Proof.Machine.execStepInterval s
  | .countdown d => Sys2Proof.Machine.execCountdown d s
  | .render p => Sys2Proof.Machine.execRender p s
  | .sample => Sys2Proof.Machine.execSample s
  | .edge cur => Sys2Proof.Machine.execEdge cur s
  | .bootMode b => Sys2Proof.Machine.execBootMode b s
  | .nextState sel => Sys2Proof.Machine.execNextState sel s
  | .runRedraw t => Sys2Proof.Machine.execRunRedraw t s

end Sys2Proof.Machine
end

