-- ==== Sys2Proof/Machine/Fetch.lean ====
section
/-! DEFINITION. What the machine performs next. There is no program counter and no program text (10_state.md R38): an
event happens when its agent acts, so what is "fetched" is the next code word the environment presents. -/

namespace Sys2Proof.Machine

/-- A `TICK` happens in the event: it is one, or one falls into its gaps. -/
def bringsTick (e : EnvEvent) : Bool := e.kind == .tick || e.gaps.flatten.contains .tick

/-- The event is a `CYCLE`. -/
def bringsCycle (e : EnvEvent) : Bool :=
  match e.kind with
  | .cycle _ => true
  | .tick | .fire => false

/-- What follows the first event of a drawn stretch. A stretch that lacks a `TICK` or a `CYCLE` is given one at its end,
so that every run has infinitely many of both, and any other stretch is left as drawn, so that no run that has them is
lost: the fairness of 70_reset_and_hazards.md R247 and no more. -/
def fairRest (b : EnvBlock) : List EnvEvent :=
  b.others ++ (if (b.first :: b.others).any bringsTick then [] else [{ kind := .tick, gaps := [] }]) ++
    (if (b.first :: b.others).any bringsCycle then [] else [{ kind := .cycle b.level, gaps := [] }])

/-- An event of the environment as it is presented. -/
def asStimulus (e : EnvEvent) : Stimulus := { code := e.kind.code, gaps := e.gaps }

/-- The next code word and the state without it. With nothing queued the environment is free but for fairness: a stretch of
events is drawn, its first is taken and the rest is queued (00_scope.md R8, R10, 70_reset_and_hazards.md R247). -/
def fetch (s : State) : Code × State :=
  match s.queue with
  | [] =>
    let b := Config.envBlock s.draws
    (b.first.kind.code,
      { s with draws := s.draws + 1, gaps := b.first.gaps, queue := (fairRest b).map asStimulus })
  | it :: rest => (it.code, { s with queue := rest, gaps := it.gaps })

/-- What the step adds after an event: what the environment placed beyond the event's last gap. -/
def settle : Result → Result
  | .next s => .next (drainGaps s)
  | .fault f => .fault f
  | .refused r => .refused r

/-- One step on a fetched code word. -/
def performCode (c : Code) (s : State) : Result :=
  match decode c with
  | .ok i => settle (exec i s)
  | .error e => .refused (.undecodable e)

/-- Presents one more code word, before everything already queued. -/
def presentFirst (c : Code) (s : State) : State :=
  { s with queue := { code := c, gaps := [] } :: s.queue }

end Sys2Proof.Machine
end

