-- ==== Sys2Proof/Machine/Trace.lean ====
section
/-! DEFINITION. The trace notation of 30_encoding.md R79 to R81: a trace is a list of events, and the pseudo-events expand
to such lists. It is no part of the hardware; it is how an environment's behaviour is written down and presented. -/

namespace Sys2Proof.Machine

/-- `TICK*n` (R81). -/
def ticks (n : Nat) : List Instr := List.replicate n .tick

/-- `FIRE*n` (R81). -/
def fires (n : Nat) : List Instr := List.replicate n .fire

/-- `WAIT b=<v>, n` (R81): the button held at `v` for `n` nominal cycles. -/
def waitCycles (v : Bit) (n : Nat) : List Instr :=
  (List.replicate n (ticks Config.cyclePeriodMs ++ [.cycle v])).flatten

/-- `PRESS` (R81). -/
def pressTrace : List Instr := waitCycles 0 1

/-- `RELEASE` (R81). -/
def releaseTrace : List Instr := waitCycles 1 1

/-- `CLICK` (R81). -/
def clickTrace : List Instr := pressTrace ++ releaseTrace

/-- A trace reader takes a trace that starts at power-on: `RESET` first and never again (70_reset_and_hazards.md R230),
and events only (30_encoding.md R79). -/
def traceLegal : List Instr → Bool
  | .reset _ :: rest => rest.all fun i => i.isEvent && (match i with | .reset _ => false | _ => true)
  | _ => false

/-- The events of a trace, queued behind what is queued already, nothing falling inside them. -/
def loadTrace (tr : List Instr) (s : State) : State :=
  { s with queue := s.queue ++ (tr.filterMap encode).map fun c => { code := c, gaps := [] } }

/-- A trace run event by event, nothing falling inside an event but what `gaps` says. -/
def runTrace : List Instr → State → Result
  | [], s => .next s
  | i :: rest, s =>
    match exec i s with
    | .next s' => runTrace rest s'
    | .fault f => .fault f
    | .refused r => .refused r

end Sys2Proof.Machine
end

