-- ==== Sys2Proof/Machine/Step.lean ====
section
/-! DEFINITION. One step: the next code word the environment presents is decoded and performed. -/

namespace Sys2Proof.Machine

/-- One step of the machine. -/
def step (s : State) : Host.Outcome State Fault Refusal :=
  performCode (fetch s).1 (fetch s).2

/-- The bare table word `w`, in the format `tableCode` takes it to have, as the very next thing the environment presents;
a word of no format changes nothing. -/
def State.withFetchWord (s : State) (nbits w : Nat) : State :=
  match tableCode nbits w with
  | some c => presentFirst c s
  | none => s

end Sys2Proof.Machine
end

