-- ==== Sys2Proof/Safety.lean ====
section
/-! DEFINITION. What claims are stated in: the horizon, and the invariants at every cycle boundary (10_state.md R41). -/

namespace Sys2Proof.Machine

/-- The pattern of the full countdown, `50:00` (44_state_machine.md R176). -/
def fullCountdown : Pattern := ⟨0x6D, 0xBF, 0x3F, 0x3F⟩

/-- The pattern `00:00` (42_display.md R142). -/
def zeroCountdown : Pattern := ⟨0x3F, 0xBF, 0x3F, 0x3F⟩

/-- `HORIZON` of a state (40_time_source.md R97). -/
abbrev State.horizon (s : State) : Prop := inHorizon s.rawMs s.factor = true

/-- (I1) `STEPPING_EN = 1` if and only if `DRIVE_STATE = Run` (R41). -/
abbrev State.steppingFollows (s : State) : Prop := s.steppingEn = true ↔ s.driveState = .run

/-- (I2) `MOTOR_EN = 1` if and only if `DRIVE_STATE` is Hold or Run (R41). -/
abbrev State.motorFollows (s : State) : Prop :=
  s.motorEn = true ↔ (s.driveState = .hold ∨ s.driveState = .run)

/-- (I3) `DISP = LAST`, and after the first `CYCLE` also `LAST = PHYS` (R41); before it `LAST` is blank (R29). -/
abbrev State.displaySynced (s : State) : Prop :=
  s.disp = s.last ∧ (s.driveState = .init → s.last = Config.blank) ∧ (s.driveState ≠ .init → s.last = s.phys)

/-- (I4) the display tells the state (R41); for Run outside the marked region only, since past the horizon a redraw may
fall into the gap of 42_display.md R139. -/
abbrev State.displayTells (s : State) : Prop :=
  (s.driveState = .idle → s.last = glyphIdle) ∧ (s.driveState = .hold → s.last = glyphHold) ∧
    (s.driveState = .run → s.pastHorizon = false → isCountdown s.last = true)

/-- No pulse is under way: `STEP` is deasserted, and `PULSING = STEP` (R31, R35). -/
abbrev State.pulseIdle (s : State) : Prop := s.stepPin = 0 ∧ s.pulsing = false

/-- The mark tells the truth: an unmarked run is inside the horizon. -/
abbrev State.horizonMarked (s : State) : Prop := s.pastHorizon = false → s.horizon

/-- `FACTOR` holds one of its two legal values (R25). -/
abbrev State.factorLegal (s : State) : Prop :=
  s.factor = Config.normalFactor ∨ s.factor = Config.accelFactor

/-- In an unmarked run the deadline lies at most a full run ahead of the logical clock (44_state_machine.md R176). -/
abbrev State.deadlineNear (s : State) : Prop :=
  s.driveState = .run → s.pastHorizon = false →
    s.runDeadline.toNat ≤ s.rawMs.toNat * s.factor.toNat + Config.maxRunMs

/-- Everything queued is a stimulus word: the functions and rows run inside events only (30_encoding.md R79, R86). -/
abbrev State.eventsOnly (s : State) : Prop := ∀ it ∈ s.queue, ∃ w, it.code = .stim8 w

/-- The invariants of 10_state.md R41, with what carries them. -/
structure State.Boundary (s : State) : Prop where
  stepping : s.steppingFollows
  motor : s.motorFollows
  synced : s.displaySynced
  tells : s.displayTells
  pulse : s.pulseIdle
  marked : s.horizonMarked
  legal : s.factorLegal
  near : s.deadlineNear

/-- `t` is `u` but for what the preempting agents write: `RAW_MS` and its mark, `STEP`, `PULSING`, the pulse count, the
event history, and the gaps used up (10_state.md R40). -/
def State.sameButPreempted (t u : State) : Prop :=
  t = { u with
    rawMs := t.rawMs
    pastHorizon := t.pastHorizon
    stepPin := t.stepPin
    pulsing := t.pulsing
    stepCount := t.stepCount
    history := t.history
    gaps := t.gaps }

/-- The instruction completes with `u`: exactly, when nothing falls into its gaps, and else up to what the preempting
agents write. -/
def State.completesAs (i : Instr) (s u : State) : Prop :=
  ∃ t, exec i s = .next t ∧ t.sameButPreempted u ∧ (s.gaps = [] → t = u)

/-- The patterns of the `DispWrite` events of a history, newest first (42_display.md R141). -/
def displayWrites (h : List IfaceEvent) : List Pattern :=
  h.filterMap fun e => match e with
    | .dispWrite p => some p
    | _ => none

/-- How many times a history asserts `STEP` (41_step_pulse.md R112). -/
def pulsesIn (h : List IfaceEvent) : Nat := h.count (.pinWrite .step Config.stepActive)

/-- The ghost counters agree with the event history (10_state.md R37). -/
abbrev State.countersAgree (s : State) : Prop :=
  s.writeCount = (displayWrites s.history).length ∧ s.stepCount = pulsesIn s.history

/-- `LAST` is the newest pattern written, blank where none was, and no two consecutive writes are equal (42_display.md
R141, 10_state.md R29). -/
abbrev State.writesDiffer (s : State) : Prop :=
  (displayWrites s.history).headD Config.blank = s.last ∧
    (displayWrites s.history ++ [Config.blank]).IsChain (· ≠ ·)

/-! ## Runs -/

/-- `n` steps. -/
def State.after : Nat → State → Result
  | 0, s => .next s
  | n + 1, s =>
    match step s with
    | .next t => State.after n t
    | .fault f => .fault f
    | .refused r => .refused r

/-- Everything queued is a legal stimulus word (30_encoding.md R79, R84). -/
def State.legalQueue (s : State) : Prop := ∀ it ∈ s.queue, ∃ i, i.isEvent = true ∧ encode i = some it.code

/-- The next step performs a `CYCLE`. -/
def State.cycleNext (s : State) : Prop := ∃ b, decode (fetch s).1 = .ok (.cycle b)

/-- A `TICK` happens in the next step: it performs one, or one falls into its gaps. -/
def State.tickNext (s : State) : Prop := decode (fetch s).1 = .ok .tick ∨ .tick ∈ (fetch s).2.gaps.flatten

/-- The fairness of 70_reset_and_hazards.md R247: from `s` on, infinitely many `CYCLE`s and infinitely many `TICK`s. -/
def State.fair (s : State) : Prop :=
  ∀ n, (∃ m t, n ≤ m ∧ State.after m s = .next t ∧ t.cycleNext) ∧ ∃ m t, n ≤ m ∧ State.after m s = .next t ∧ t.tickNext

/-- An event that may follow `RESET` (00_scope.md R8). -/
def afterReset (it : Stimulus) : Bool :=
  match decode it.code with
  | .ok .tick | .ok .fire | .ok (.cycle _) => true
  | _ => false

/-- The button level a `CYCLE` presents; none for the other events. -/
def levelOf (it : Stimulus) : Option Bit :=
  match decode it.code with
  | .ok (.cycle b) => some b
  | _ => none

/-- How many `TICK`s an event brings: itself and those in its gaps. -/
def ticksOf (it : Stimulus) : Nat :=
  (if decode it.code = .ok .tick then 1 else 0) + it.gaps.flatten.count .tick

/-- How many `TICK`s a trace brings. -/
def traceTicks (tr : List Stimulus) : Nat := (tr.map ticksOf).sum

/-- The time samples of the `CYCLE`s of a trace that starts at `raw` raw milliseconds, in unbounded integers: a cycle's
sample has seen the `TICK`s of its first two gaps (40_time_source.md R92, 44_state_machine.md R186). -/
def sampleTimes (factor : Nat) : Nat → List Stimulus → List Nat
  | _, [] => []
  | raw, it :: rest =>
    (if (levelOf it).isSome then [(raw + (it.gaps.take 2).flatten.count .tick) * factor] else []) ++
      sampleTimes factor (raw + ticksOf it) rest

/-- Some `CYCLE` of a trace has a press-edge, `prev` being the level sampled before it (43_button.md R151, R154). -/
def hasPress : Bit → List Stimulus → Bool
  | _, [] => false
  | prev, it :: rest =>
    match levelOf it with
    | none => hasPress prev rest
    | some b => pressEdge prev b || hasPress b rest

end Sys2Proof.Machine
end

