-- ==== Sys2Proof/Certificates/Slice0/Obligations.lean ====
section
/-! DEFINITION. The statements. Each docstring names the rules of spec/ it formalises; `State.completesAs i s u` says that
`exec i s` answers a next state that is `u` exactly where nothing falls into the gaps, and `u` up to the preempting agents'
own fields otherwise (every other field is unchanged: the frame). How gaps are data is entry 1 of the log. -/

open Sys2Proof Sys2Proof.Machine

/-! ## Encodings -/

/-- The decoder and the encoder agree, both ways, on every well-formed instruction that has a code word (30_encoding.md
R71 to R75, R79, R86). -/
def Obligations.DecodeAndEncodeAgree : Prop :=
  ∀ (i : Instr) (c : Code), (i.wf = true ∧ encode i = some c) ↔ decode c = .ok i

/-- Each of the 16 selector values matches exactly one row of the table of R73; the decoder answers that row, and `NEXT`
its next state. -/
def Obligations.SelectorTableIsExact : Prop :=
  ∀ sel : BitVec 4,
    let rows : List (BitVec 4 × BitVec 4 × Instr × DriveState) :=
      [(0x0, 0xC, .tInitIdle sel, .idle), (0x4, 0xE, .tIdleStay sel, .idle), (0x6, 0xE, .tIdleHold sel, .hold),
       (0x8, 0xE, .tHoldStay sel, .hold), (0xA, 0xE, .tHoldRun sel, .run), (0xC, 0xF, .tRunStay sel, .run),
       (0xD, 0xF, .tRunIdleExp sel, .idle), (0xE, 0xE, .tRunIdleBtn sel, .idle)]
    (rows.filter fun r => sel &&& r.2.1 == r.1).map (·.2.2)
      = [(decodeSel4 sel, nextOf (selState sel) (selEdge sel) (selExp sel))]

/-- A few code words written out from the spec's encodings decode to the rows they stand for (30_encoding.md R73, R75, R79,
R86). -/
def Obligations.WrittenWordsDecodeToTheirRows : Prop :=
  decode (.stim8 0b00000000) = .ok (.reset 0) ∧ decode (.stim8 0b00000001) = .ok (.reset 1) ∧
  decode (.stim8 0b01000000) = .ok .tick ∧ decode (.stim8 0b10000001) = .ok (.cycle 1) ∧
  decode (.stim8 0b11000000) = .ok .fire ∧ decode (.sel4 0b1101) = .ok (.tRunIdleExp 0b1101) ∧
  decode (.dig4 0b0111) = .ok .enc7_7 ∧ decode (.apply 0b11) = .ok .applyRun ∧
  decode (.glyph 0b10) = .ok .glyphHold

/-- A reader of code words refuses what R83, R84 and R86 exclude: the step stops by name whenever such a word is next.
Rests on the spec's own decision D23. -/
def Obligations.ExcludedWordsAreRefused : Prop :=
  (∀ (s : State) (w : BitVec 8) (g : List (List Preempt)) (rest : List Stimulus),
    s.queue = ⟨.stim8 w, g⟩ :: rest →
    (w.extractLsb' 1 5 ≠ 0 ∨ ((w.extractLsb' 6 2 = 0b01 ∨ w.extractLsb' 6 2 = 0b11) ∧ w.getLsbD 0 = true)) →
    step s = .refused (.undecodable (.reservedStimulus w))) ∧
  (∀ (s : State) (d : BitVec 4) (g : List (List Preempt)) (rest : List Stimulus),
    s.queue = ⟨.dig4 d, g⟩ :: rest → 10 ≤ d.toNat → step s = .refused (.undecodable (.noDigit d))) ∧
  (∀ (s : State) (g : List (List Preempt)) (rest : List Stimulus),
    s.queue = ⟨.apply 0b00, g⟩ :: rest → step s = .refused (.undecodable .noApplyRow)) ∧
  (∀ (s : State) (c : BitVec 2) (g : List (List Preempt)) (rest : List Stimulus),
    s.queue = ⟨.glyph c, g⟩ :: rest → c = 0b00 ∨ c = 0b11 → step s = .refused (.undecodable (.noGlyphRow c)))

/-! ## The step -/

/-- When the next code word presented decodes to `i`, the step is `exec` of `i` on the state with that word taken off the
queue and its gaps loaded, and then whatever was placed beyond the last gap. With nothing queued the environment draws a
stretch of events, performs its first and queues the rest. The queue, the gaps and the drawn stretch are the model's form of
the environment (entries 1, 2). -/
def Obligations.StepPerformsThePresentedInstruction : Prop :=
  (∀ (s : State) (c : Code) (g : List (List Preempt)) (rest : List Stimulus) (i : Instr),
    s.queue = ⟨c, g⟩ :: rest → decode c = .ok i →
    step s = settle (exec i { s with queue := rest, gaps := g })) ∧
  (∀ s : State, s.queue = [] → ∃ i, i.isEvent = true ∧ (∀ b, i ≠ .reset b) ∧
    decode (Config.envBlock s.draws).first.kind.code = .ok i ∧
    step s = settle (exec i
      { s with
        draws := s.draws + 1
        gaps := (Config.envBlock s.draws).first.gaps
        queue := (fairRest (Config.envBlock s.draws)).map asStimulus }))

/-! ## Time source -/

/-- `TICK` advances `RAW_MS` by 1 modulo 2^32 and marks a run that is past the horizon from then on (40_time_source.md
R90, R97; 93_implementation_defined.md U1; the mark is the model's, entry 11). Nothing else changes. Rests on the
spec's own decisions D3, D4. -/
def Obligations.TickAdvancesRawTime : Prop :=
  ∀ s : State, ∃ t, exec .tick s = .next t ∧ t.rawMs.toNat = (s.rawMs.toNat + 1) % 2 ^ 32 ∧
    (t.pastHorizon = true ↔ (s.pastHorizon = true ∨ ¬ t.horizon)) ∧
    t = { s with rawMs := t.rawMs, pastHorizon := t.pastHorizon }

/-- `NOW` is the low 32 bits of `RAW_MS` times `FACTOR`, and has no side effect (R91; the
truncation is the spec's decision D5). -/
def Obligations.NowIsTheScaledRawTime : Prop :=
  ∀ s : State, ∃ t, exec .now s = .next t ∧
    t.sig.t.toNat = (s.rawMs.toNat * s.factor.toNat) % 2 ^ 32 ∧ t = { s with sig := { s.sig with t := t.sig.t } }

/-- `EXPIRED(t)` is the unsigned comparison `t >=u RUN_DEADLINE` in Run, and 0 elsewhere (R93; the
spec's decisions D29 and D30). -/
def Obligations.ExpiredIsTheUnsignedComparison : Prop :=
  ∀ (s : State) (t : Time), ∃ u, exec (.expired t) s = .next u ∧
    (u.sig.exp = true ↔ (s.driveState = .run ∧ s.runDeadline.toNat ≤ t.toNat)) ∧
    u = { s with sig := { s.sig with exp := u.sig.exp } }

/-- `REMAIN(t)` is `RUN_DEADLINE -w t` in Run (R94); elsewhere, where it is not defined, the operation completes with a
freely drawn value (entry 9). -/
def Obligations.RemainSubtractsModulo : Prop :=
  (∀ (s : State) (t : Time), s.driveState = .run → ∃ u, exec (.remain t) s = .next u ∧
    u.sig.rem.toNat = (s.runDeadline.toNat + (2 ^ 32 - t.toNat)) % 2 ^ 32 ∧
    u = { s with sig := { s.sig with rem := u.sig.rem } }) ∧
  (∀ (s : State) (t : Time), s.driveState ≠ .run → ∃ u, exec (.remain t) s = .next u ∧
    u.sig.rem = Config.freeRemain s.draws ∧
    u = { s with sig := { s.sig with rem := u.sig.rem }, draws := s.draws + 1 })

/-- Inside the horizon `NOW` increases by exactly `FACTOR` per `TICK`, is the same with no `TICK` between, and so
never decreases over any number of `TICK`s (R98). The spec marks it as derived. -/
def Obligations.LogicalTimeAdvancesByFactor : Prop :=
  (∀ s t u v : State, s.factor ≠ 0 → s.horizon → exec .tick s = .next t → t.horizon →
    exec .now s = .next u → exec .now t = .next v → v.sig.t.toNat = u.sig.t.toNat + s.factor.toNat) ∧
  (∀ s t u : State, exec .now s = .next t → exec .now t = .next u → u.sig.t = t.sig.t) ∧
  (∀ (s t u v : State) (n : Nat), s.rawMs.toNat + n < 2 ^ 32 → runTrace (ticks n) s = .next t → t.horizon →
    exec .now s = .next u → exec .now t = .next v → u.sig.t.toNat ≤ v.sig.t.toNat)

/-! ## Step pulse generator -/

/-- `FIRE`: one pulse where stepping is enabled, nothing where it is not; what falls into the hold can only be `TICK`s,
each of which advances `RAW_MS` and marks a run that leaves the horizon (41_step_pulse.md R112, R113; entries 11, 16). Rests on the spec's own decision D27. -/
def Obligations.FirePulsesExactlyWhenEnabled : Prop :=
  (∀ s : State, s.steppingEn = true → ∃ t, exec .fire s = .next t ∧
    t = { s with
      stepPin := 0
      pulsing := false
      stepCount := s.stepCount + 1
      history := .pinWrite .step 0 :: .pinWrite .step Config.stepActive :: s.history
      rawMs := s.rawMs + BitVec.ofNat 32 ((s.gaps.headD []).count .tick)
      pastHorizon := t.pastHorizon
      gaps := s.gaps.tail } ∧
    (t.pastHorizon = true ↔ (s.pastHorizon = true ∨ ∃ k, 1 ≤ k ∧ k ≤ (s.gaps.headD []).count .tick ∧
      inHorizon (s.rawMs + BitVec.ofNat 32 k) s.factor = false))) ∧
  (∀ s : State, s.steppingEn = false → exec .fire s = .next s)

/-- `STEP_INTERVAL` is 100093 div `FACTOR`, stored in `STEP_INTERVAL_US` (41_step_pulse.md R110, 10_state.md R30); a
`FACTOR` of 0, which no run reaches, gives a free value (entry 10). Rests on the spec's own decision D16. -/
def Obligations.StepIntervalIsTheFloorQuotient : Prop :=
  (∀ s : State, s.factor ≠ 0 →
    exec .stepInterval s = .next { s with stepIntervalUs := 100093 / s.factor.toNat }) ∧
  (∀ s : State, s.factor = 0 →
    exec .stepInterval s = .next { s with stepIntervalUs := Config.intervalOfZero })

/-- The firing period exceeds the pulse width for both boot modes, whatever legal `ACCEL_FACTOR` is (41_step_pulse.md
R113, 43_button.md R153). Rests on the spec's own decision D15. -/
def Obligations.FiringPeriodExceedsPulseWidth : Prop :=
  1 < Config.accelFactor.toNat ∧ Config.accelFactor.toNat ≤ 991 ∧
    ∀ b : Bit, Config.pulseWidthUs < stepIntervalOf (bootFactor b)

/-- The callback reads nothing but `STEPPING_EN`: two states that agree on it see the same pulse
(10_state.md R42, 60_exceptions.md R209). -/
def Obligations.FireDependsOnTheFlagOnly : Prop :=
  ∀ s u s' u' : State, s.steppingEn = u.steppingEn → exec .fire s = .next s' → exec .fire u = .next u' →
    ∃ l, s'.history = l ++ s.history ∧ u'.history = l ++ u.history ∧
      ∃ n, s'.stepCount = s.stepCount + n ∧ u'.stepCount = u.stepCount + n

/-! ## Display -/

/-- The ten digit codes (42_display.md R125 to R134), with the `DIG4` value that selects each (the
spec's decision D10). -/
def Obligations.DigitEncoderGivesItsCodes : Prop :=
  ∀ s : State,
    let row (n : BitVec 4) (i : Instr) (code : Seg8) : Prop :=
      decode (.dig4 n) = .ok i ∧ exec i s = .next { s with sig := { s.sig with seg := code } }
    row 0 .enc7_0 0x3F ∧ row 1 .enc7_1 0x06 ∧ row 2 .enc7_2 0x5B ∧ row 3 .enc7_3 0x4F ∧ row 4 .enc7_4 0x66 ∧
    row 5 .enc7_5 0x6D ∧ row 6 .enc7_6 0x7D ∧ row 7 .enc7_7 0x07 ∧ row 8 .enc7_8 0x7F ∧ row 9 .enc7_9 0x6F

/-- The glyphs in use meet the three constraints of R136, whatever the implementation supplies, and so do the
defaults. Rests on the spec's own decision D12. The model's part: entry 7. -/
def Obligations.GlyphsAreLegal : Prop :=
  let legal (idle hold : Pattern) : Prop :=
    idle ≠ hold ∧ idle ≠ ⟨0x00, 0x00, 0x00, 0x00⟩ ∧ isCountdown idle = false ∧ isCountdown hold = false
  legal glyphIdle glyphHold ∧ legal ⟨0x30, 0x5E, 0x38, 0x79⟩ ⟨0x76, 0x5C, 0x38, 0x5E⟩

/-- `GLYPH` of Idle and of Hold (42_display.md R135). -/
def Obligations.GlyphRowsAnswerTheGlyphs : Prop :=
  ∀ s : State, exec .glyphIdle s = .next { s with sig := { s.sig with pat := glyphIdle } } ∧
    exec .glyphHold s = .next { s with sig := { s.sig with pat := glyphHold } }

/-- `COUNTDOWN(d)` outside the gap: `00:00` from the sentinel on, else `d` rounded up to whole seconds, as two digits
each with the separator lit (42_display.md R137). Rests on the spec's own decisions D33, D11. -/
def Obligations.CountdownShowsRoundedUpTime : Prop :=
  (∀ (s : State) (d : Time), 6000000 ≤ d.toNat →
    exec (.countdown d) s = .next { s with sig := { s.sig with pat := ⟨0x3F, 0xBF, 0x3F, 0x3F⟩ } }) ∧
  (∀ (s : State) (d : Time) (a b c e : Fin 10), d.toNat ≤ 5999000 →
    (d.toNat + 999) / 1000 = (10 * a.val + b.val) * 60 + (10 * c.val + e.val) → c.val < 6 →
    exec (.countdown d) s =
      .next { s with sig := { s.sig with pat := ⟨enc7 a, enc7 b ||| 0x80, enc7 c, enc7 e⟩ } })

/-- In the gap only digit 0 is open: it is a freely drawn value, the other digits read `BF 3F 3F` (42_display.md R139;
entry 8). Rests on the spec's own decision D21. -/
def Obligations.CountdownGapLeavesDigitZeroOpen : Prop :=
  ∀ (s : State) (d : Time), 5999000 < d.toNat → d.toNat < 6000000 →
    exec (.countdown d) s =
      .next { s with
        sig := { s.sig with pat := ⟨Config.freeSeg8 s.draws, 0xBF, 0x3F, 0x3F⟩ }
        draws := s.draws + 1 }

/-- The countdown patterns are exactly what `COUNTDOWN` returns outside the gap, two durations give the same pattern
exactly when they show the same seconds, and bit 7 of digit 1 alone is set (42_display.md R138). The spec marks it as
derived. -/
def Obligations.CountdownPatternsAreInjective : Prop :=
  let shown (d : Time) : Nat := if 6000000 ≤ d.toNat then 0 else (d.toNat + 999) / 1000
  (∀ (s u v : State) (d e : Time), inGap d = false → inGap e = false → exec (.countdown d) s = .next u →
    exec (.countdown e) s = .next v → (u.sig.pat = v.sig.pat ↔ shown d = shown e)) ∧
  (∀ (s : State) (p : Pattern), isCountdown p = true ↔
    ∃ d u, inGap d = false ∧ exec (.countdown d) s = .next u ∧ u.sig.pat = p) ∧
  (∀ p : Pattern, isCountdown p = true ↔ ∃ a b c e : Fin 10, c.val < 6 ∧
    p = ⟨enc7 a, enc7 b ||| 0x80, enc7 c, enc7 e⟩) ∧
  (∀ p : Pattern, isCountdown p = true →
    p.d1.getLsbD 7 = true ∧ p.d0.getLsbD 7 = false ∧ p.d2.getLsbD 7 = false ∧ p.d3.getLsbD 7 = false)

/-- `RENDER(p)`: `DISP` and `LAST` take the pattern, and the display is written exactly when `p` differs from `LAST`
(42_display.md R140). -/
def Obligations.RenderWritesOnlyChanges : Prop :=
  (∀ (s : State) (p : Pattern), p = s.last → State.completesAs (.render p) s { s with disp := p }) ∧
  (∀ (s : State) (p : Pattern), p ≠ s.last → State.completesAs (.render p) s
    { s with
      disp := p
      last := p
      phys := p
      writeCount := s.writeCount + 1
      history := .dispWrite p :: s.history })

/-- Calling `RENDER` twice with the same pattern issues exactly one physical write (42_display.md R141). -/
def Obligations.RenderTwiceWritesOnce : Prop :=
  ∀ (s t u : State) (p : Pattern), p ≠ s.last → exec (.render p) s = .next t → exec (.render p) t = .next u →
    u.writeCount = s.writeCount + 1 ∧ u.phys = p ∧ u.last = p ∧ u.disp = p

/-- Every event keeps it true that the display writes since `RESET` never repeat the pattern before them, and that `LAST`
is the newest of them (42_display.md R141, 10_state.md R29). -/
def Obligations.DisplayWritesNeverRepeat : Prop :=
  State.reset.writesDiffer ∧
    ∀ (i : Instr) (s t : State), i.isEvent = true → s.writesDiffer → exec i s = .next t → t.writesDiffer

/-- The ghost counters count the `DispWrite` events and the pulses of the event history, under every operation
(10_state.md R37). Rests on the spec's own decision D31. The model's part: entry 19. -/
def Obligations.CountersFollowTheHistory : Prop :=
  State.reset.countersAgree ∧
    ∀ (i : Instr) (s t : State), s.countersAgree → exec i s = .next t → t.countersAgree

/-! ## Button -/

/-- `EDGE`: released at the previous poll and pressed at this one (43_button.md R151). -/
def Obligations.EdgeIsReleasedThenPressed : Prop :=
  ∀ (s : State) (cur : Bit), ∃ t, exec (.edge cur) s = .next t ∧
    (t.sig.edge = true ↔ (s.prevBtn = 1 ∧ cur = 0)) ∧ t = { s with sig := { s.sig with edge := t.sig.edge } }

/-- `SAMPLE` reads the level of `BTN_N` and changes no register (43_button.md R150, 20_memory.md R51). Rests on the
spec's own decision D25. -/
def Obligations.SampleReadsThePin : Prop :=
  ∀ s : State, exec .sample s =
    .next { s with sig := { s.sig with cur := s.btnN }, history := .pinRead s.btnN :: s.history }

/-- `BOOT_MODE(b)`: pressed selects `ACCEL_FACTOR`, released 1 (43_button.md R152). -/
def Obligations.BootModeSelectsTheFactor : Prop :=
  ∀ s : State, exec (.bootMode 0) s = .next { s with factor := Config.accelFactor } ∧
    exec (.bootMode 1) s = .next { s with factor := 1 }

/-- A button held through boot never moves the machine past Idle: after `RESET b=0`, any trace of `TICK`s, `FIRE`s and
cycles that sample 0 ends in Init or Idle, and in Idle with `PREV_BTN` 0 once a cycle has passed (43_button.md R156).
The spec marks it as derived. -/
def Obligations.HeldThroughBootStaysInIdle : Prop :=
  ∀ (s t : State) (tr : List Instr), (∀ i ∈ tr, i = .tick ∨ i = .fire ∨ i = .cycle 0) →
    runTrace (.reset 0 :: tr) s = .next t →
    if Instr.cycle 0 ∈ tr then t.driveState = .idle ∧ t.prevBtn = 0 else t.driveState = .init

/-- `CLICK` produces one press-edge from a released button: from Idle it leads to Hold and ends released, whatever the
cycle period (30_encoding.md R81, 44_state_machine.md R179). -/
def Obligations.ClickMovesIdleToHold : Prop :=
  ∀ s : State, s.driveState = .idle → s.prevBtn = 1 → ∃ t, runTrace clickTrace s = .next t ∧
    t.driveState = .hold ∧ t.prevBtn = 1 ∧ t.motorEn = true ∧ t.steppingEn = false

/-! ## Transitions -/

/-- `NEXT` on every selector (44_state_machine.md R165). -/
def Obligations.NextFollowsTheTable : Prop :=
  ∀ (s : State) (st : DriveState) (edge exp : Bool), ∃ t,
    exec (.nextState (selector st edge exp)) s = .next t ∧ t = { s with sig := { s.sig with next := t.sig.next } } ∧
    (st = .init → t.sig.next = .idle) ∧
    (st = .idle → edge = true → t.sig.next = .hold) ∧ (st = .idle → edge = false → t.sig.next = .idle) ∧
    (st = .hold → edge = true → t.sig.next = .run) ∧ (st = .hold → edge = false → t.sig.next = .hold) ∧
    (st = .run → (edge = true ∨ exp = true) → t.sig.next = .idle) ∧
    (st = .run → edge = false → exp = false → t.sig.next = .run)

/-- The entry actions of Idle (44_state_machine.md R174). Rests on the spec's own decision D8. -/
def Obligations.ApplyIdleRendersAndDisables : Prop :=
  ∀ s : State, State.completesAs .applyIdle s
    { s with
      disp := glyphIdle
      last := glyphIdle
      phys := if glyphIdle = s.last then s.phys else glyphIdle
      writeCount := if glyphIdle = s.last then s.writeCount else s.writeCount + 1
      motorEn := false
      steppingEn := false
      history := .pinWrite .motorEnN 1 ::
        (if glyphIdle = s.last then s.history else .dispWrite glyphIdle :: s.history) }

/-- The entry actions of Hold (R175). -/
def Obligations.ApplyHoldRendersAndEnergizes : Prop :=
  ∀ s : State, State.completesAs .applyHold s
    { s with
      disp := glyphHold
      last := glyphHold
      phys := if glyphHold = s.last then s.phys else glyphHold
      writeCount := if glyphHold = s.last then s.writeCount else s.writeCount + 1
      motorEn := true
      steppingEn := false
      history := .pinWrite .motorEnN 0 ::
        (if glyphHold = s.last then s.history else .dispWrite glyphHold :: s.history) }

/-- The entry actions of Run: `50:00`, motor and stepping enabled, the deadline armed from the latched sample (R176).
Rests on the spec's own decisions D7, D9. -/
def Obligations.ApplyRunArmsTheDeadline : Prop :=
  ∀ s : State, State.completesAs .applyRun s
    { s with
      disp := fullCountdown
      last := fullCountdown
      phys := if fullCountdown = s.last then s.phys else fullCountdown
      writeCount := if fullCountdown = s.last then s.writeCount else s.writeCount + 1
      motorEn := true
      steppingEn := true
      runDeadline := s.sig.t + 3000000
      history := .pinWrite .motorEnN 0 ::
        (if fullCountdown = s.last then s.history else .dispWrite fullCountdown :: s.history) }

/-- `RUN_REDRAW(t)` in Run renders the countdown of `RUN_DEADLINE -w t`, and elsewhere that of a freely drawn
remaining time (44_state_machine.md R177, 40_time_source.md R94). The model's part: entry 9. -/
def Obligations.RedrawRendersTheRemainingTime : Prop :=
  (∀ (s : State) (t : Time), s.driveState = .run → ∃ v,
    exec (.countdown (s.runDeadline - t)) s = .next v ∧ State.completesAs (.runRedraw t) s
      { s with
        sig := { s.sig with rem := s.runDeadline - t }
        draws := v.draws
        disp := v.sig.pat
        last := v.sig.pat
        phys := if v.sig.pat = s.last then s.phys else v.sig.pat
        writeCount := if v.sig.pat = s.last then s.writeCount else s.writeCount + 1
        history := if v.sig.pat = s.last then s.history else .dispWrite v.sig.pat :: s.history }) ∧
  (∀ (s : State) (t : Time), s.driveState ≠ .run → ∃ u v,
    exec (.remain t) s = .next u ∧ exec (.countdown (Config.freeRemain s.draws)) u = .next v ∧
      State.completesAs (.runRedraw t) s
      { s with
        sig := { s.sig with rem := Config.freeRemain s.draws }
        draws := v.draws
        disp := v.sig.pat
        last := v.sig.pat
        phys := if v.sig.pat = s.last then s.phys else v.sig.pat
        writeCount := if v.sig.pat = s.last then s.writeCount else s.writeCount + 1
        history := if v.sig.pat = s.last then s.history else .dispWrite v.sig.pat :: s.history })

/-- The three rows that lead to Idle, as rows of their own (44_state_machine.md R166, R172, R173): the Idle glyph, both
flags 0, then `DRIVE_STATE`, and `PREV_BTN` from the latched level. A row covers steps 6 to 8 of a cycle (entry 13). -/
def Obligations.RowsToIdleStopTheDrive : Prop :=
  ∀ (s : State) (i : Instr) (sel : BitVec 4), i ∈ [Instr.tInitIdle sel, .tRunIdleExp sel, .tRunIdleBtn sel] →
    State.completesAs i s
      { s with
        driveState := .idle
        prevBtn := s.sig.cur
        disp := glyphIdle
        last := glyphIdle
        phys := if glyphIdle = s.last then s.phys else glyphIdle
        writeCount := if glyphIdle = s.last then s.writeCount else s.writeCount + 1
        motorEn := false
        steppingEn := false
        history := .pinWrite .motorEnN 1 ::
          (if glyphIdle = s.last then s.history else .dispWrite glyphIdle :: s.history) }

/-- The two rows that keep Idle and Hold change only `PREV_BTN` (R167, R169). -/
def Obligations.StayRowsKeepOnlyTheButton : Prop :=
  ∀ (s : State) (i : Instr) (sel : BitVec 4), i ∈ [Instr.tIdleStay sel, .tHoldStay sel] →
    State.completesAs i s { s with prevBtn := s.sig.cur }

/-- The row from Idle to Hold (R168). That the row by itself includes `PREV_BTN` is entry 13. -/
def Obligations.IdleHoldRowEnergizes : Prop :=
  ∀ (s : State) (sel : BitVec 4), State.completesAs (.tIdleHold sel) s
    { s with
      driveState := .hold
      prevBtn := s.sig.cur
      disp := glyphHold
      last := glyphHold
      phys := if glyphHold = s.last then s.phys else glyphHold
      writeCount := if glyphHold = s.last then s.writeCount else s.writeCount + 1
      motorEn := true
      steppingEn := false
      history := .pinWrite .motorEnN 0 ::
        (if glyphHold = s.last then s.history else .dispWrite glyphHold :: s.history) }

/-- The row from Hold to Run (R170). That the row by itself includes `PREV_BTN` is entry 13. -/
def Obligations.HoldRunRowStartsTheRun : Prop :=
  ∀ (s : State) (sel : BitVec 4), State.completesAs (.tHoldRun sel) s
    { s with
      driveState := .run
      prevBtn := s.sig.cur
      disp := fullCountdown
      last := fullCountdown
      phys := if fullCountdown = s.last then s.phys else fullCountdown
      writeCount := if fullCountdown = s.last then s.writeCount else s.writeCount + 1
      motorEn := true
      steppingEn := true
      runDeadline := s.sig.t + 3000000
      history := .pinWrite .motorEnN 0 ::
        (if fullCountdown = s.last then s.history else .dispWrite fullCountdown :: s.history) }

/-- The row that stays in Run completes with the countdown of what remains at the latched sample and `PREV_BTN` from the
latched level (R171); whatever the state, it is `RUN_REDRAW` of the latched sample, then `PREV_BTN`, and exactly that where
nothing preempts it: no flag, no deadline. That the row by itself includes `PREV_BTN` is entry 13. -/
def Obligations.RunStayRowRedraws : Prop :=
  (∀ (s : State) (sel : BitVec 4), s.driveState = .run → ∃ v,
    exec (.countdown (s.runDeadline - s.sig.t)) s = .next v ∧ State.completesAs (.tRunStay sel) s
      { s with
        prevBtn := s.sig.cur
        sig := { s.sig with rem := s.runDeadline - s.sig.t }
        draws := v.draws
        disp := v.sig.pat
        last := v.sig.pat
        phys := if v.sig.pat = s.last then s.phys else v.sig.pat
        writeCount := if v.sig.pat = s.last then s.writeCount else s.writeCount + 1
        history := if v.sig.pat = s.last then s.history else .dispWrite v.sig.pat :: s.history }) ∧
  (∀ (s : State) (sel : BitVec 4), ∃ u t, exec (.runRedraw s.sig.t) s = .next u ∧
    exec (.tRunStay sel) s = .next t ∧ t.sameButPreempted { u with prevBtn := s.sig.cur } ∧
    (s.gaps = [] → t = { u with prevBtn := s.sig.cur }) ∧
    t.motorEn = s.motorEn ∧ t.steppingEn = s.steppingEn ∧ t.runDeadline = s.runDeadline ∧
    t.driveState = s.driveState)

/-! ## The control cycle -/

/-- A cycle is its sensing followed by the one row that its selector decodes to: the pseudocode of R186 and the decode table
of R73 describe the same machine, under every preemption. -/
def Obligations.CyclePerformsItsSelectorsRow : Prop :=
  ∀ (s : State) (b : Bit), ∃ i t, decode (.sel4 (selectorOf (senseCycle b s))) = .ok i ∧ i.wf = true ∧
    exec i (senseCycle b s) = .next t ∧ exec (.cycle b) s = .next { t with sig := Signals.none }

/-- `Init` always advances to `Idle`, whatever the button does, with the Idle glyph shown, the motor de-energized and
stepping disabled; and no cycle ends in `Init`, so this happens once after each `RESET` (44_state_machine.md R166). -/
def Obligations.FirstCycleEntersIdle : Prop :=
  (∀ (s : State) (b : Bit), s.driveState = .init → State.completesAs (.cycle b) s
    { s with
      driveState := .idle
      btnN := b
      prevBtn := b
      sig := Signals.none
      disp := glyphIdle
      last := glyphIdle
      phys := if glyphIdle = s.last then s.phys else glyphIdle
      writeCount := if glyphIdle = s.last then s.writeCount else s.writeCount + 1
      motorEn := false
      steppingEn := false
      history := .pinWrite .motorEnN 1 ::
        (if glyphIdle = s.last then .pinRead b :: s.history else .dispWrite glyphIdle :: .pinRead b :: s.history) }) ∧
  (∀ (s t : State) (b : Bit), exec (.cycle b) s = .next t → t.driveState ≠ .init)

/-- A cycle in Idle or Hold without a press-edge changes only the retained button level (44_state_machine.md R167, R169). -/
def Obligations.CycleWithoutEdgeStays : Prop :=
  ∀ (s : State) (b : Bit), s.driveState = .idle ∨ s.driveState = .hold → ¬ (s.prevBtn = 1 ∧ b = 0) →
    State.completesAs (.cycle b) s
      { s with btnN := b, prevBtn := b, sig := Signals.none, history := .pinRead b :: s.history }

/-- From Idle one press-edge leads to Hold: motor energized, stepping still disabled (R168). -/
def Obligations.PressInIdleEntersHold : Prop :=
  ∀ s : State, s.driveState = .idle → s.prevBtn = 1 → State.completesAs (.cycle 0) s
    { s with
      driveState := .hold
      btnN := 0
      prevBtn := 0
      sig := Signals.none
      disp := glyphHold
      last := glyphHold
      phys := if glyphHold = s.last then s.phys else glyphHold
      writeCount := if glyphHold = s.last then s.writeCount else s.writeCount + 1
      motorEn := true
      steppingEn := false
      history := .pinWrite .motorEnN 0 ::
        (if glyphHold = s.last then .pinRead 0 :: s.history else .dispWrite glyphHold :: .pinRead 0 :: s.history) }

/-- From Hold one press-edge leads to Run: `50:00`, stepping enabled, the deadline 3,000,000 logical milliseconds after the
cycle's one time sample (R170, R176). -/
def Obligations.PressInHoldEntersRun : Prop :=
  ∀ s : State, s.driveState = .hold → s.prevBtn = 1 → State.completesAs (.cycle 0) s
    { s with
      driveState := .run
      btnN := 0
      prevBtn := 0
      sig := Signals.none
      disp := fullCountdown
      last := fullCountdown
      phys := if fullCountdown = s.last then s.phys else fullCountdown
      writeCount := if fullCountdown = s.last then s.writeCount else s.writeCount + 1
      motorEn := true
      steppingEn := true
      runDeadline :=
        (s.rawMs + BitVec.ofNat 32 ((s.gaps.take 2).flatten.count .tick)) * s.factor + 3000000
      history := .pinWrite .motorEnN 0 ::
        (if fullCountdown = s.last then .pinRead 0 :: s.history
          else .dispWrite fullCountdown :: .pinRead 0 :: s.history) }

/-- In Run without a press-edge and before the deadline the cycle redraws the countdown of what remains at its one time
sample, and changes no flag and no deadline (R171, R177). -/
def Obligations.RunBeforeTheDeadlineRedraws : Prop :=
  ∀ (s : State) (b : Bit) (t : Time), s.driveState = .run → ¬ (s.prevBtn = 1 ∧ b = 0) →
    t = (s.rawMs + BitVec.ofNat 32 ((s.gaps.take 2).flatten.count .tick)) * s.factor →
    t.toNat < s.runDeadline.toNat → ∃ v, exec (.countdown (s.runDeadline - t)) s = .next v ∧
    State.completesAs (.cycle b) s
      { s with
        btnN := b
        prevBtn := b
        sig := Signals.none
        draws := v.draws
        disp := v.sig.pat
        last := v.sig.pat
        phys := if v.sig.pat = s.last then s.phys else v.sig.pat
        writeCount := if v.sig.pat = s.last then s.writeCount else s.writeCount + 1
        history := if v.sig.pat = s.last then .pinRead b :: s.history
          else .dispWrite v.sig.pat :: .pinRead b :: s.history }

/-- In Run a press-edge, or a time sample at or past the deadline, leads to Idle in this cycle, once: the glyph, the motor
de-energized, stepping disabled (R172, R173). -/
def Obligations.RunEndsOnPressOrDeadline : Prop :=
  ∀ (s : State) (b : Bit), s.driveState = .run →
    (s.prevBtn = 1 ∧ b = 0) ∨ s.runDeadline.toNat ≤
      ((s.rawMs + BitVec.ofNat 32 ((s.gaps.take 2).flatten.count .tick)) * s.factor).toNat →
    State.completesAs (.cycle b) s
      { s with
        driveState := .idle
        btnN := b
        prevBtn := b
        sig := Signals.none
        disp := glyphIdle
        last := glyphIdle
        phys := if glyphIdle = s.last then s.phys else glyphIdle
        writeCount := if glyphIdle = s.last then s.writeCount else s.writeCount + 1
        motorEn := false
        steppingEn := false
        history := .pinWrite .motorEnN 1 ::
          (if glyphIdle = s.last then .pinRead b :: s.history
            else .dispWrite glyphIdle :: .pinRead b :: s.history) }

/-- A cycle that keeps the state writes neither `MOTOR_EN` nor `STEPPING_EN` nor `RUN_DEADLINE` (R178). -/
def Obligations.SteadyCycleWritesNoFlag : Prop :=
  ∀ (s t : State) (b : Bit), exec (.cycle b) s = .next t → t.driveState = s.driveState →
    t.motorEn = s.motorEn ∧ t.steppingEn = s.steppingEn ∧ t.runDeadline = s.runDeadline

/-- A single press-edge advances exactly one step in the cycle Idle, Hold, Run, Idle, and without one the state changes only
out of `Init` or by expiry out of Run (R179). -/
def Obligations.OneStepPerPress : Prop :=
  ∀ (s t : State) (b : Bit), exec (.cycle b) s = .next t →
    (s.prevBtn = 1 ∧ b = 0 → s.driveState ≠ .init →
      (s.driveState = .idle ∧ t.driveState = .hold) ∨ (s.driveState = .hold ∧ t.driveState = .run) ∨
        (s.driveState = .run ∧ t.driveState = .idle)) ∧
    (¬ (s.prevBtn = 1 ∧ b = 0) → t.driveState = s.driveState ∨
      ((s.driveState = .init ∨ s.driveState = .run) ∧ t.driveState = .idle))

/-- The main loop's cycle never writes `FACTOR`, `STEP_INTERVAL_US` or `DIR`, and where nothing preempts it neither
`RAW_MS` nor `STEP` nor `PULSING`; after it the machine is not in `Init` (10_state.md R21, R40). -/
def Obligations.CycleWritesOnlyItsOwnRegisters : Prop :=
  ∀ (s t : State) (b : Bit), exec (.cycle b) s = .next t →
    t.factor = s.factor ∧ t.stepIntervalUs = s.stepIntervalUs ∧ t.dir = s.dir ∧ t.queue = s.queue ∧
    t.driveState ≠ .init ∧ t.prevBtn = b ∧
    (s.gaps = [] → t.rawMs = s.rawMs ∧ t.stepPin = s.stepPin ∧ t.pulsing = s.pulsing ∧
      t.stepCount = s.stepCount ∧ t.pastHorizon = s.pastHorizon)

/-- Only `PREV_BTN` carries button history from cycle to cycle: what the per-cycle signals held before makes no
difference (10_state.md R36). The model's part: entry 12. -/
def Obligations.CycleIgnoresStaleSignals : Prop :=
  ∀ (s : State) (x : Signals) (b : Bit), exec (.cycle b) { s with sig := x } = exec (.cycle b) s

/-! ## Preemption inside a cycle -/

/-- On the cycle that leaves Run, a `FIRE` after the Idle glyph is out still pulses, one between `MOTOR_EN <- 0` and
`STEPPING_EN <- 0` pulses while the driver is de-energized, and one after `STEPPING_EN <- 0` does nothing
(20_memory.md R62 (a) and (b), 60_exceptions.md R207). Rests on the spec's own decision D8. -/
def Obligations.FireInsideTheStoppingCycle : Prop :=
  ∀ s : State, s.driveState = .run → s.steppingEn = true → s.prevBtn = 1 → glyphIdle ≠ s.last →
    s.gaps = [[], [], [], [], [], [], [], [.fire], [.fire], [.fire]] →
    ∃ t, exec (.cycle 0) s = .next t ∧ t.stepCount = s.stepCount + 2 ∧ t.driveState = .idle ∧
      t.history = .pinWrite .step 0 :: .pinWrite .step 1 :: .pinWrite .motorEnN 1 ::
        .pinWrite .step 0 :: .pinWrite .step 1 :: .dispWrite glyphIdle :: .pinRead 0 :: s.history

/-- On entry to Run no pulse is emitted before `STEPPING_EN <- 1`: firings in every gap up to it do nothing
(20_memory.md R62 (c)). Rests on the spec's own decision D8. -/
def Obligations.NoPulseBeforeSteppingIsEnabled : Prop :=
  ∀ (s : State) (n : Nat), s.driveState = .hold → s.steppingEn = false → s.prevBtn = 1 → s.last ≠ fullCountdown →
    n ≤ 9 → s.gaps = List.replicate n [.fire] →
    ∃ t, exec (.cycle 0) s = .next t ∧ t.driveState = .run ∧ t.stepCount = s.stepCount ∧
      t.history = .pinWrite .motorEnN 0 :: .dispWrite fullCountdown :: .pinRead 0 :: s.history

/-! ## Runs -/

/-- Run-duration guarantee, over every trace of `TICK`s, `FIRE`s and cycles without a press-edge, whatever falls into the
gaps of its events, while the clock does not overflow. (a) While every cycle of the trace samples a time before the
deadline, the machine stays in Run with its deadline and flags. (b) The first cycle whose sample has reached the deadline
leads to Idle, with both flags 0. (c) A run entered by a cycle with sample `t0` inside the horizon ends so at the first
sample at or past `t0 + 3000000`, and that sample is before `t0 + 3000000 + P` where consecutive samples are at most `P`
logical milliseconds apart (44_state_machine.md R180). The spec marks it as derived. Rests on the spec's own decision D7;
the model's part: entries 1, 2, 21. -/
def Obligations.RunLastsUntilItsDeadline : Prop :=
  (∀ (s : State) (tr rest : List Stimulus), s.driveState = .run → s.queue = tr ++ rest →
    (∀ x ∈ tr, afterReset x = true) → hasPress s.prevBtn tr = false →
    s.rawMs.toNat + traceTicks tr < 2 ^ 32 → (s.rawMs.toNat + traceTicks tr) * s.factor.toNat < 2 ^ 32 →
    (∀ t ∈ sampleTimes s.factor.toNat s.rawMs.toNat tr, t < s.runDeadline.toNat) →
    ∃ u, State.after tr.length s = .next u ∧ u.driveState = .run ∧ u.runDeadline = s.runDeadline ∧
      u.motorEn = s.motorEn ∧ u.steppingEn = s.steppingEn ∧ u.queue = rest) ∧
  (∀ (s : State) (tr rest : List Stimulus) (it : Stimulus) (ts : List Nat) (t1 : Nat),
    s.driveState = .run → s.queue = tr ++ it :: rest →
    (∀ x ∈ tr, afterReset x = true) → (levelOf it).isSome = true → hasPress s.prevBtn (tr ++ [it]) = false →
    s.rawMs.toNat + traceTicks (tr ++ [it]) < 2 ^ 32 →
    (s.rawMs.toNat + traceTicks (tr ++ [it])) * s.factor.toNat < 2 ^ 32 →
    sampleTimes s.factor.toNat s.rawMs.toNat (tr ++ [it]) = ts ++ [t1] →
    (∀ t ∈ ts, t < s.runDeadline.toNat) → s.runDeadline.toNat ≤ t1 →
    ∃ u, State.after (tr.length + 1) s = .next u ∧ u.driveState = .idle ∧ u.motorEn = false ∧ u.steppingEn = false ∧
      u.queue = rest) ∧
  (∀ (s : State) (tr rest : List Stimulus) (it0 it : Stimulus) (ts : List Nat) (t0 t1 P : Nat),
    s.driveState = .hold → s.prevBtn = 1 → s.queue = it0 :: (tr ++ it :: rest) → levelOf it0 = some 0 →
    (∀ x ∈ tr, afterReset x = true) → (levelOf it).isSome = true → hasPress 0 (tr ++ [it]) = false →
    s.rawMs.toNat + traceTicks (it0 :: (tr ++ [it])) < 2 ^ 32 →
    (s.rawMs.toNat + traceTicks (it0 :: (tr ++ [it]))) * s.factor.toNat < 2 ^ 32 →
    sampleTimes s.factor.toNat s.rawMs.toNat (it0 :: (tr ++ [it])) = t0 :: (ts ++ [t1]) →
    t0 + 3000000 < 2 ^ 32 → (t0 :: (ts ++ [t1])).IsChain (fun a c => c ≤ a + P) →
    (∀ t ∈ ts, t < t0 + 3000000) → t0 + 3000000 ≤ t1 →
    t1 < t0 + 3000000 + P ∧
    (∃ u, State.after (tr.length + 1) s = .next u ∧ u.driveState = .run ∧ u.runDeadline.toNat = t0 + 3000000 ∧
      u.motorEn = true ∧ u.steppingEn = true) ∧
    ∃ u, State.after (tr.length + 2) s = .next u ∧ u.driveState = .idle ∧ u.motorEn = false ∧ u.steppingEn = false)

/-- While a run lasts, inside the horizon, the display is never `00:00`: a cycle that ends in Run shows another pattern
(44_state_machine.md R182, which the spec marks as derived). Rests on the one time sample of a cycle, where R92 also admits
a second reading under which `00:00` can show (the spec's decision D7; entry 21, unsafe for the original firmware), and on
the horizon mark of the model (entry 11). -/
def Obligations.RunNeverShowsZero : Prop :=
  ∀ (s t : State) (b : Bit), s.Boundary → exec (.cycle b) s = .next t → t.driveState = .run →
    t.pastHorizon = false → t.last ≠ zeroCountdown ∧ isCountdown t.last = true

/-! ## Power-on -/

/-- `RESET(b)` leaves every register at its reset value, `FACTOR` and `STEP_INTERVAL_US` chosen by the boot sample,
and has made the boot sequence's calls in order (70_reset_and_hazards.md R230, R231). What the spec leaves unspecified
is a free value: `RUN_DEADLINE` and `PHYS` (entries 5, 6). Rests on the spec's own decisions D6, D13, D14, D19. -/
def Obligations.ResetLeavesTheResetValues : Prop :=
  ∀ (s : State) (b : Bit), ∃ t, exec (.reset b) s = .next t ∧
    t.driveState = .init ∧ t.steppingEn = false ∧ t.motorEn = false ∧ t.motorEnN = 1 ∧ t.rawMs = 0 ∧
    t.prevBtn = 1 ∧ t.disp = ⟨0, 0, 0, 0⟩ ∧ t.last = ⟨0, 0, 0, 0⟩ ∧ t.stepPin = 0 ∧ t.pulsing = false ∧
    t.dir = Config.dirLevel ∧ t.btnN = b ∧ t.writeCount = 0 ∧ t.stepCount = 0 ∧ t.pastHorizon = false ∧
    (b = 0 → t.factor = Config.accelFactor ∧ t.stepIntervalUs = 100093 / Config.accelFactor.toNat) ∧
    (b = 1 → t.factor = 1 ∧ t.stepIntervalUs = 100093) ∧
    t.history = [.timerStart t.stepIntervalUs, .dispBrightness Config.brightness, .pinRead b,
      .pinWrite .motorEnN 1, .pinWrite .dir Config.dirLevel, .pinWrite .step 0]

/-- The model's `State.reset` is the machine right after `RESET(1)` (entry 4: the model's choice of a released button), but
for the free values and the environment's fields. -/
def Obligations.ResetStateIsPowerOnReleased : Prop :=
  ∀ s : State, ∃ t, exec (.reset 1) s = .next t ∧
    t = { State.reset with
      runDeadline := t.runDeadline
      phys := t.phys
      draws := t.draws
      queue := s.queue
      gaps := s.gaps }

/-! ## Invariants -/

/-- The invariants of 10_state.md R41 hold right after reset. -/
def Obligations.ResetMeetsTheBoundaryInvariants : Prop :=
  State.reset.Boundary ∧ State.reset.eventsOnly

/-- Every step keeps the invariants of 10_state.md R41, whatever event the environment presents or draws and whatever falls
into its gaps (R22, R23, R41; 44_state_machine.md R183). (I4) is kept for Run in an unmarked run only (entry 11). -/
def Obligations.StepKeepsTheBoundaryInvariants : Prop :=
  ∀ s t : State, s.Boundary → s.eventsOnly → step s = .next t → t.Boundary ∧ t.eventsOnly

/-- No run of events stops: from a state whose queue holds legal stimulus words only, every step answers a next state
(20_memory.md R66, 60_exceptions.md R200). -/
def Obligations.EventsAlwaysComplete : Prop :=
  ∀ s : State, (∀ it ∈ s.queue, ∃ i, i.isEvent = true ∧ encode i = some it.code) →
    ∃ t, step s = .next t ∧ (∀ it ∈ t.queue, ∃ i, i.isEvent = true ∧ encode i = some it.code)

/-- Every run has infinitely many `CYCLE`s and infinitely many `TICK`s: the loop never blocks and the clock never stops
(70_reset_and_hazards.md R247, 20_memory.md R66). The spec marks it as derived. That an environment with nothing queued
draws stretches of events that have both is the model's form of it (entry 2). -/
def Obligations.EveryRunIsFair : Prop := ∀ s : State, s.legalQueue → s.fair
end

