-- ==== Sys2Proof/Laws/State.lean ====
section
/-! SUPPORT. One lemma per field per update of the state: what each named operation that writes fixed fields leaves in
each field, so that no later proof unfolds a record update. Each proof is (rfl) in parentheses, so that simp uses the lemma
as an equation and never asks the kernel to compare two whole states by unfolding. -/

namespace Sys2Proof.Machine

@[simp] theorem note_driveState (e : IfaceEvent) (s : State) : (note e s).driveState = s.driveState := (rfl)
@[simp] theorem note_steppingEn (e : IfaceEvent) (s : State) : (note e s).steppingEn = s.steppingEn := (rfl)
@[simp] theorem note_motorEn (e : IfaceEvent) (s : State) : (note e s).motorEn = s.motorEn := (rfl)
@[simp] theorem note_runDeadline (e : IfaceEvent) (s : State) : (note e s).runDeadline = s.runDeadline := (rfl)
@[simp] theorem note_factor (e : IfaceEvent) (s : State) : (note e s).factor = s.factor := (rfl)
@[simp] theorem note_rawMs (e : IfaceEvent) (s : State) : (note e s).rawMs = s.rawMs := (rfl)
@[simp] theorem note_prevBtn (e : IfaceEvent) (s : State) : (note e s).prevBtn = s.prevBtn := (rfl)
@[simp] theorem note_disp (e : IfaceEvent) (s : State) : (note e s).disp = s.disp := (rfl)
@[simp] theorem note_last (e : IfaceEvent) (s : State) : (note e s).last = s.last := (rfl)
@[simp] theorem note_stepIntervalUs (e : IfaceEvent) (s : State) : (note e s).stepIntervalUs = s.stepIntervalUs := (rfl)
@[simp] theorem note_stepPin (e : IfaceEvent) (s : State) : (note e s).stepPin = s.stepPin := (rfl)
@[simp] theorem note_dir (e : IfaceEvent) (s : State) : (note e s).dir = s.dir := (rfl)
@[simp] theorem note_btnN (e : IfaceEvent) (s : State) : (note e s).btnN = s.btnN := (rfl)
@[simp] theorem note_phys (e : IfaceEvent) (s : State) : (note e s).phys = s.phys := (rfl)
@[simp] theorem note_pulsing (e : IfaceEvent) (s : State) : (note e s).pulsing = s.pulsing := (rfl)
@[simp] theorem note_writeCount (e : IfaceEvent) (s : State) : (note e s).writeCount = s.writeCount := (rfl)
@[simp] theorem note_stepCount (e : IfaceEvent) (s : State) : (note e s).stepCount = s.stepCount := (rfl)
@[simp] theorem note_history (e : IfaceEvent) (s : State) : (note e s).history = e :: s.history := (rfl)
@[simp] theorem note_pastHorizon (e : IfaceEvent) (s : State) : (note e s).pastHorizon = s.pastHorizon := (rfl)
@[simp] theorem note_sig (e : IfaceEvent) (s : State) : (note e s).sig = s.sig := (rfl)
@[simp] theorem note_draws (e : IfaceEvent) (s : State) : (note e s).draws = s.draws := (rfl)
@[simp] theorem note_queue (e : IfaceEvent) (s : State) : (note e s).queue = s.queue := (rfl)
@[simp] theorem note_gaps (e : IfaceEvent) (s : State) : (note e s).gaps = s.gaps := (rfl)

@[simp] theorem pinWriteStep_driveState (v : Bit) (s : State) : (pinWrite .step v s).driveState = s.driveState := (rfl)
@[simp] theorem pinWriteStep_steppingEn (v : Bit) (s : State) : (pinWrite .step v s).steppingEn = s.steppingEn := (rfl)
@[simp] theorem pinWriteStep_motorEn (v : Bit) (s : State) : (pinWrite .step v s).motorEn = s.motorEn := (rfl)
@[simp] theorem pinWriteStep_runDeadline (v : Bit) (s : State) : (pinWrite .step v s).runDeadline = s.runDeadline := (rfl)
@[simp] theorem pinWriteStep_factor (v : Bit) (s : State) : (pinWrite .step v s).factor = s.factor := (rfl)
@[simp] theorem pinWriteStep_rawMs (v : Bit) (s : State) : (pinWrite .step v s).rawMs = s.rawMs := (rfl)
@[simp] theorem pinWriteStep_prevBtn (v : Bit) (s : State) : (pinWrite .step v s).prevBtn = s.prevBtn := (rfl)
@[simp] theorem pinWriteStep_disp (v : Bit) (s : State) : (pinWrite .step v s).disp = s.disp := (rfl)
@[simp] theorem pinWriteStep_last (v : Bit) (s : State) : (pinWrite .step v s).last = s.last := (rfl)
@[simp] theorem pinWriteStep_stepIntervalUs (v : Bit) (s : State) : (pinWrite .step v s).stepIntervalUs = s.stepIntervalUs := (rfl)
@[simp] theorem pinWriteStep_stepPin (v : Bit) (s : State) : (pinWrite .step v s).stepPin = v := (rfl)
@[simp] theorem pinWriteStep_dir (v : Bit) (s : State) : (pinWrite .step v s).dir = s.dir := (rfl)
@[simp] theorem pinWriteStep_btnN (v : Bit) (s : State) : (pinWrite .step v s).btnN = s.btnN := (rfl)
@[simp] theorem pinWriteStep_phys (v : Bit) (s : State) : (pinWrite .step v s).phys = s.phys := (rfl)
@[simp] theorem pinWriteStep_pulsing (v : Bit) (s : State) : (pinWrite .step v s).pulsing = s.pulsing := (rfl)
@[simp] theorem pinWriteStep_writeCount (v : Bit) (s : State) : (pinWrite .step v s).writeCount = s.writeCount := (rfl)
@[simp] theorem pinWriteStep_stepCount (v : Bit) (s : State) : (pinWrite .step v s).stepCount = s.stepCount := (rfl)
@[simp] theorem pinWriteStep_history (v : Bit) (s : State) : (pinWrite .step v s).history = .pinWrite .step v :: s.history := (rfl)
@[simp] theorem pinWriteStep_pastHorizon (v : Bit) (s : State) : (pinWrite .step v s).pastHorizon = s.pastHorizon := (rfl)
@[simp] theorem pinWriteStep_sig (v : Bit) (s : State) : (pinWrite .step v s).sig = s.sig := (rfl)
@[simp] theorem pinWriteStep_draws (v : Bit) (s : State) : (pinWrite .step v s).draws = s.draws := (rfl)
@[simp] theorem pinWriteStep_queue (v : Bit) (s : State) : (pinWrite .step v s).queue = s.queue := (rfl)
@[simp] theorem pinWriteStep_gaps (v : Bit) (s : State) : (pinWrite .step v s).gaps = s.gaps := (rfl)

@[simp] theorem pinWriteDir_driveState (v : Bit) (s : State) : (pinWrite .dir v s).driveState = s.driveState := (rfl)
@[simp] theorem pinWriteDir_steppingEn (v : Bit) (s : State) : (pinWrite .dir v s).steppingEn = s.steppingEn := (rfl)
@[simp] theorem pinWriteDir_motorEn (v : Bit) (s : State) : (pinWrite .dir v s).motorEn = s.motorEn := (rfl)
@[simp] theorem pinWriteDir_runDeadline (v : Bit) (s : State) : (pinWrite .dir v s).runDeadline = s.runDeadline := (rfl)
@[simp] theorem pinWriteDir_factor (v : Bit) (s : State) : (pinWrite .dir v s).factor = s.factor := (rfl)
@[simp] theorem pinWriteDir_rawMs (v : Bit) (s : State) : (pinWrite .dir v s).rawMs = s.rawMs := (rfl)
@[simp] theorem pinWriteDir_prevBtn (v : Bit) (s : State) : (pinWrite .dir v s).prevBtn = s.prevBtn := (rfl)
@[simp] theorem pinWriteDir_disp (v : Bit) (s : State) : (pinWrite .dir v s).disp = s.disp := (rfl)
@[simp] theorem pinWriteDir_last (v : Bit) (s : State) : (pinWrite .dir v s).last = s.last := (rfl)
@[simp] theorem pinWriteDir_stepIntervalUs (v : Bit) (s : State) : (pinWrite .dir v s).stepIntervalUs = s.stepIntervalUs := (rfl)
@[simp] theorem pinWriteDir_stepPin (v : Bit) (s : State) : (pinWrite .dir v s).stepPin = s.stepPin := (rfl)
@[simp] theorem pinWriteDir_dir (v : Bit) (s : State) : (pinWrite .dir v s).dir = v := (rfl)
@[simp] theorem pinWriteDir_btnN (v : Bit) (s : State) : (pinWrite .dir v s).btnN = s.btnN := (rfl)
@[simp] theorem pinWriteDir_phys (v : Bit) (s : State) : (pinWrite .dir v s).phys = s.phys := (rfl)
@[simp] theorem pinWriteDir_pulsing (v : Bit) (s : State) : (pinWrite .dir v s).pulsing = s.pulsing := (rfl)
@[simp] theorem pinWriteDir_writeCount (v : Bit) (s : State) : (pinWrite .dir v s).writeCount = s.writeCount := (rfl)
@[simp] theorem pinWriteDir_stepCount (v : Bit) (s : State) : (pinWrite .dir v s).stepCount = s.stepCount := (rfl)
@[simp] theorem pinWriteDir_history (v : Bit) (s : State) : (pinWrite .dir v s).history = .pinWrite .dir v :: s.history := (rfl)
@[simp] theorem pinWriteDir_pastHorizon (v : Bit) (s : State) : (pinWrite .dir v s).pastHorizon = s.pastHorizon := (rfl)
@[simp] theorem pinWriteDir_sig (v : Bit) (s : State) : (pinWrite .dir v s).sig = s.sig := (rfl)
@[simp] theorem pinWriteDir_draws (v : Bit) (s : State) : (pinWrite .dir v s).draws = s.draws := (rfl)
@[simp] theorem pinWriteDir_queue (v : Bit) (s : State) : (pinWrite .dir v s).queue = s.queue := (rfl)
@[simp] theorem pinWriteDir_gaps (v : Bit) (s : State) : (pinWrite .dir v s).gaps = s.gaps := (rfl)

@[simp] theorem pinWriteMotorEnN_driveState (v : Bit) (s : State) : (pinWrite .motorEnN v s).driveState = s.driveState := (rfl)
@[simp] theorem pinWriteMotorEnN_steppingEn (v : Bit) (s : State) : (pinWrite .motorEnN v s).steppingEn = s.steppingEn := (rfl)
@[simp] theorem pinWriteMotorEnN_motorEn (v : Bit) (s : State) : (pinWrite .motorEnN v s).motorEn = (v == 0) := (rfl)
@[simp] theorem pinWriteMotorEnN_runDeadline (v : Bit) (s : State) : (pinWrite .motorEnN v s).runDeadline = s.runDeadline := (rfl)
@[simp] theorem pinWriteMotorEnN_factor (v : Bit) (s : State) : (pinWrite .motorEnN v s).factor = s.factor := (rfl)
@[simp] theorem pinWriteMotorEnN_rawMs (v : Bit) (s : State) : (pinWrite .motorEnN v s).rawMs = s.rawMs := (rfl)
@[simp] theorem pinWriteMotorEnN_prevBtn (v : Bit) (s : State) : (pinWrite .motorEnN v s).prevBtn = s.prevBtn := (rfl)
@[simp] theorem pinWriteMotorEnN_disp (v : Bit) (s : State) : (pinWrite .motorEnN v s).disp = s.disp := (rfl)
@[simp] theorem pinWriteMotorEnN_last (v : Bit) (s : State) : (pinWrite .motorEnN v s).last = s.last := (rfl)
@[simp] theorem pinWriteMotorEnN_stepIntervalUs (v : Bit) (s : State) : (pinWrite .motorEnN v s).stepIntervalUs = s.stepIntervalUs := (rfl)
@[simp] theorem pinWriteMotorEnN_stepPin (v : Bit) (s : State) : (pinWrite .motorEnN v s).stepPin = s.stepPin := (rfl)
@[simp] theorem pinWriteMotorEnN_dir (v : Bit) (s : State) : (pinWrite .motorEnN v s).dir = s.dir := (rfl)
@[simp] theorem pinWriteMotorEnN_btnN (v : Bit) (s : State) : (pinWrite .motorEnN v s).btnN = s.btnN := (rfl)
@[simp] theorem pinWriteMotorEnN_phys (v : Bit) (s : State) : (pinWrite .motorEnN v s).phys = s.phys := (rfl)
@[simp] theorem pinWriteMotorEnN_pulsing (v : Bit) (s : State) : (pinWrite .motorEnN v s).pulsing = s.pulsing := (rfl)
@[simp] theorem pinWriteMotorEnN_writeCount (v : Bit) (s : State) : (pinWrite .motorEnN v s).writeCount = s.writeCount := (rfl)
@[simp] theorem pinWriteMotorEnN_stepCount (v : Bit) (s : State) : (pinWrite .motorEnN v s).stepCount = s.stepCount := (rfl)
@[simp] theorem pinWriteMotorEnN_history (v : Bit) (s : State) : (pinWrite .motorEnN v s).history = .pinWrite .motorEnN v :: s.history := (rfl)
@[simp] theorem pinWriteMotorEnN_pastHorizon (v : Bit) (s : State) : (pinWrite .motorEnN v s).pastHorizon = s.pastHorizon := (rfl)
@[simp] theorem pinWriteMotorEnN_sig (v : Bit) (s : State) : (pinWrite .motorEnN v s).sig = s.sig := (rfl)
@[simp] theorem pinWriteMotorEnN_draws (v : Bit) (s : State) : (pinWrite .motorEnN v s).draws = s.draws := (rfl)
@[simp] theorem pinWriteMotorEnN_queue (v : Bit) (s : State) : (pinWrite .motorEnN v s).queue = s.queue := (rfl)
@[simp] theorem pinWriteMotorEnN_gaps (v : Bit) (s : State) : (pinWrite .motorEnN v s).gaps = s.gaps := (rfl)

@[simp] theorem presentButton_driveState (b : Bit) (s : State) : (presentButton b s).driveState = s.driveState := (rfl)
@[simp] theorem presentButton_steppingEn (b : Bit) (s : State) : (presentButton b s).steppingEn = s.steppingEn := (rfl)
@[simp] theorem presentButton_motorEn (b : Bit) (s : State) : (presentButton b s).motorEn = s.motorEn := (rfl)
@[simp] theorem presentButton_runDeadline (b : Bit) (s : State) : (presentButton b s).runDeadline = s.runDeadline := (rfl)
@[simp] theorem presentButton_factor (b : Bit) (s : State) : (presentButton b s).factor = s.factor := (rfl)
@[simp] theorem presentButton_rawMs (b : Bit) (s : State) : (presentButton b s).rawMs = s.rawMs := (rfl)
@[simp] theorem presentButton_prevBtn (b : Bit) (s : State) : (presentButton b s).prevBtn = s.prevBtn := (rfl)
@[simp] theorem presentButton_disp (b : Bit) (s : State) : (presentButton b s).disp = s.disp := (rfl)
@[simp] theorem presentButton_last (b : Bit) (s : State) : (presentButton b s).last = s.last := (rfl)
@[simp] theorem presentButton_stepIntervalUs (b : Bit) (s : State) : (presentButton b s).stepIntervalUs = s.stepIntervalUs := (rfl)
@[simp] theorem presentButton_stepPin (b : Bit) (s : State) : (presentButton b s).stepPin = s.stepPin := (rfl)
@[simp] theorem presentButton_dir (b : Bit) (s : State) : (presentButton b s).dir = s.dir := (rfl)
@[simp] theorem presentButton_btnN (b : Bit) (s : State) : (presentButton b s).btnN = b := (rfl)
@[simp] theorem presentButton_phys (b : Bit) (s : State) : (presentButton b s).phys = s.phys := (rfl)
@[simp] theorem presentButton_pulsing (b : Bit) (s : State) : (presentButton b s).pulsing = s.pulsing := (rfl)
@[simp] theorem presentButton_writeCount (b : Bit) (s : State) : (presentButton b s).writeCount = s.writeCount := (rfl)
@[simp] theorem presentButton_stepCount (b : Bit) (s : State) : (presentButton b s).stepCount = s.stepCount := (rfl)
@[simp] theorem presentButton_history (b : Bit) (s : State) : (presentButton b s).history = s.history := (rfl)
@[simp] theorem presentButton_pastHorizon (b : Bit) (s : State) : (presentButton b s).pastHorizon = s.pastHorizon := (rfl)
@[simp] theorem presentButton_sig (b : Bit) (s : State) : (presentButton b s).sig = s.sig := (rfl)
@[simp] theorem presentButton_draws (b : Bit) (s : State) : (presentButton b s).draws = s.draws := (rfl)
@[simp] theorem presentButton_queue (b : Bit) (s : State) : (presentButton b s).queue = s.queue := (rfl)
@[simp] theorem presentButton_gaps (b : Bit) (s : State) : (presentButton b s).gaps = s.gaps := (rfl)

@[simp] theorem samplePin_driveState (s : State) : (samplePin s).driveState = s.driveState := (rfl)
@[simp] theorem samplePin_steppingEn (s : State) : (samplePin s).steppingEn = s.steppingEn := (rfl)
@[simp] theorem samplePin_motorEn (s : State) : (samplePin s).motorEn = s.motorEn := (rfl)
@[simp] theorem samplePin_runDeadline (s : State) : (samplePin s).runDeadline = s.runDeadline := (rfl)
@[simp] theorem samplePin_factor (s : State) : (samplePin s).factor = s.factor := (rfl)
@[simp] theorem samplePin_rawMs (s : State) : (samplePin s).rawMs = s.rawMs := (rfl)
@[simp] theorem samplePin_prevBtn (s : State) : (samplePin s).prevBtn = s.prevBtn := (rfl)
@[simp] theorem samplePin_disp (s : State) : (samplePin s).disp = s.disp := (rfl)
@[simp] theorem samplePin_last (s : State) : (samplePin s).last = s.last := (rfl)
@[simp] theorem samplePin_stepIntervalUs (s : State) : (samplePin s).stepIntervalUs = s.stepIntervalUs := (rfl)
@[simp] theorem samplePin_stepPin (s : State) : (samplePin s).stepPin = s.stepPin := (rfl)
@[simp] theorem samplePin_dir (s : State) : (samplePin s).dir = s.dir := (rfl)
@[simp] theorem samplePin_btnN (s : State) : (samplePin s).btnN = s.btnN := (rfl)
@[simp] theorem samplePin_phys (s : State) : (samplePin s).phys = s.phys := (rfl)
@[simp] theorem samplePin_pulsing (s : State) : (samplePin s).pulsing = s.pulsing := (rfl)
@[simp] theorem samplePin_writeCount (s : State) : (samplePin s).writeCount = s.writeCount := (rfl)
@[simp] theorem samplePin_stepCount (s : State) : (samplePin s).stepCount = s.stepCount := (rfl)
@[simp] theorem samplePin_history (s : State) : (samplePin s).history = .pinRead s.btnN :: s.history := (rfl)
@[simp] theorem samplePin_pastHorizon (s : State) : (samplePin s).pastHorizon = s.pastHorizon := (rfl)
@[simp] theorem samplePin_sig (s : State) : (samplePin s).sig = { s.sig with cur := s.btnN } := (rfl)
@[simp] theorem samplePin_draws (s : State) : (samplePin s).draws = s.draws := (rfl)
@[simp] theorem samplePin_queue (s : State) : (samplePin s).queue = s.queue := (rfl)
@[simp] theorem samplePin_gaps (s : State) : (samplePin s).gaps = s.gaps := (rfl)

@[simp] theorem dispWrite_driveState (p : Pattern) (s : State) : (dispWrite p s).driveState = s.driveState := (rfl)
@[simp] theorem dispWrite_steppingEn (p : Pattern) (s : State) : (dispWrite p s).steppingEn = s.steppingEn := (rfl)
@[simp] theorem dispWrite_motorEn (p : Pattern) (s : State) : (dispWrite p s).motorEn = s.motorEn := (rfl)
@[simp] theorem dispWrite_runDeadline (p : Pattern) (s : State) : (dispWrite p s).runDeadline = s.runDeadline := (rfl)
@[simp] theorem dispWrite_factor (p : Pattern) (s : State) : (dispWrite p s).factor = s.factor := (rfl)
@[simp] theorem dispWrite_rawMs (p : Pattern) (s : State) : (dispWrite p s).rawMs = s.rawMs := (rfl)
@[simp] theorem dispWrite_prevBtn (p : Pattern) (s : State) : (dispWrite p s).prevBtn = s.prevBtn := (rfl)
@[simp] theorem dispWrite_disp (p : Pattern) (s : State) : (dispWrite p s).disp = s.disp := (rfl)
@[simp] theorem dispWrite_last (p : Pattern) (s : State) : (dispWrite p s).last = s.last := (rfl)
@[simp] theorem dispWrite_stepIntervalUs (p : Pattern) (s : State) : (dispWrite p s).stepIntervalUs = s.stepIntervalUs := (rfl)
@[simp] theorem dispWrite_stepPin (p : Pattern) (s : State) : (dispWrite p s).stepPin = s.stepPin := (rfl)
@[simp] theorem dispWrite_dir (p : Pattern) (s : State) : (dispWrite p s).dir = s.dir := (rfl)
@[simp] theorem dispWrite_btnN (p : Pattern) (s : State) : (dispWrite p s).btnN = s.btnN := (rfl)
@[simp] theorem dispWrite_phys (p : Pattern) (s : State) : (dispWrite p s).phys = p := (rfl)
@[simp] theorem dispWrite_pulsing (p : Pattern) (s : State) : (dispWrite p s).pulsing = s.pulsing := (rfl)
@[simp] theorem dispWrite_writeCount (p : Pattern) (s : State) : (dispWrite p s).writeCount = s.writeCount + 1 := (rfl)
@[simp] theorem dispWrite_stepCount (p : Pattern) (s : State) : (dispWrite p s).stepCount = s.stepCount := (rfl)
@[simp] theorem dispWrite_history (p : Pattern) (s : State) : (dispWrite p s).history = .dispWrite p :: s.history := (rfl)
@[simp] theorem dispWrite_pastHorizon (p : Pattern) (s : State) : (dispWrite p s).pastHorizon = s.pastHorizon := (rfl)
@[simp] theorem dispWrite_sig (p : Pattern) (s : State) : (dispWrite p s).sig = s.sig := (rfl)
@[simp] theorem dispWrite_draws (p : Pattern) (s : State) : (dispWrite p s).draws = s.draws := (rfl)
@[simp] theorem dispWrite_queue (p : Pattern) (s : State) : (dispWrite p s).queue = s.queue := (rfl)
@[simp] theorem dispWrite_gaps (p : Pattern) (s : State) : (dispWrite p s).gaps = s.gaps := (rfl)

@[simp] theorem dispBrightness_driveState (v : Nat) (s : State) : (dispBrightness v s).driveState = s.driveState := (rfl)
@[simp] theorem dispBrightness_steppingEn (v : Nat) (s : State) : (dispBrightness v s).steppingEn = s.steppingEn := (rfl)
@[simp] theorem dispBrightness_motorEn (v : Nat) (s : State) : (dispBrightness v s).motorEn = s.motorEn := (rfl)
@[simp] theorem dispBrightness_runDeadline (v : Nat) (s : State) : (dispBrightness v s).runDeadline = s.runDeadline := (rfl)
@[simp] theorem dispBrightness_factor (v : Nat) (s : State) : (dispBrightness v s).factor = s.factor := (rfl)
@[simp] theorem dispBrightness_rawMs (v : Nat) (s : State) : (dispBrightness v s).rawMs = s.rawMs := (rfl)
@[simp] theorem dispBrightness_prevBtn (v : Nat) (s : State) : (dispBrightness v s).prevBtn = s.prevBtn := (rfl)
@[simp] theorem dispBrightness_disp (v : Nat) (s : State) : (dispBrightness v s).disp = s.disp := (rfl)
@[simp] theorem dispBrightness_last (v : Nat) (s : State) : (dispBrightness v s).last = s.last := (rfl)
@[simp] theorem dispBrightness_stepIntervalUs (v : Nat) (s : State) : (dispBrightness v s).stepIntervalUs = s.stepIntervalUs := (rfl)
@[simp] theorem dispBrightness_stepPin (v : Nat) (s : State) : (dispBrightness v s).stepPin = s.stepPin := (rfl)
@[simp] theorem dispBrightness_dir (v : Nat) (s : State) : (dispBrightness v s).dir = s.dir := (rfl)
@[simp] theorem dispBrightness_btnN (v : Nat) (s : State) : (dispBrightness v s).btnN = s.btnN := (rfl)
@[simp] theorem dispBrightness_phys (v : Nat) (s : State) : (dispBrightness v s).phys = s.phys := (rfl)
@[simp] theorem dispBrightness_pulsing (v : Nat) (s : State) : (dispBrightness v s).pulsing = s.pulsing := (rfl)
@[simp] theorem dispBrightness_writeCount (v : Nat) (s : State) : (dispBrightness v s).writeCount = s.writeCount := (rfl)
@[simp] theorem dispBrightness_stepCount (v : Nat) (s : State) : (dispBrightness v s).stepCount = s.stepCount := (rfl)
@[simp] theorem dispBrightness_history (v : Nat) (s : State) : (dispBrightness v s).history = .dispBrightness v :: s.history := (rfl)
@[simp] theorem dispBrightness_pastHorizon (v : Nat) (s : State) : (dispBrightness v s).pastHorizon = s.pastHorizon := (rfl)
@[simp] theorem dispBrightness_sig (v : Nat) (s : State) : (dispBrightness v s).sig = s.sig := (rfl)
@[simp] theorem dispBrightness_draws (v : Nat) (s : State) : (dispBrightness v s).draws = s.draws := (rfl)
@[simp] theorem dispBrightness_queue (v : Nat) (s : State) : (dispBrightness v s).queue = s.queue := (rfl)
@[simp] theorem dispBrightness_gaps (v : Nat) (s : State) : (dispBrightness v s).gaps = s.gaps := (rfl)

@[simp] theorem timerStart_driveState (us : Nat) (s : State) : (timerStart us s).driveState = s.driveState := (rfl)
@[simp] theorem timerStart_steppingEn (us : Nat) (s : State) : (timerStart us s).steppingEn = s.steppingEn := (rfl)
@[simp] theorem timerStart_motorEn (us : Nat) (s : State) : (timerStart us s).motorEn = s.motorEn := (rfl)
@[simp] theorem timerStart_runDeadline (us : Nat) (s : State) : (timerStart us s).runDeadline = s.runDeadline := (rfl)
@[simp] theorem timerStart_factor (us : Nat) (s : State) : (timerStart us s).factor = s.factor := (rfl)
@[simp] theorem timerStart_rawMs (us : Nat) (s : State) : (timerStart us s).rawMs = s.rawMs := (rfl)
@[simp] theorem timerStart_prevBtn (us : Nat) (s : State) : (timerStart us s).prevBtn = s.prevBtn := (rfl)
@[simp] theorem timerStart_disp (us : Nat) (s : State) : (timerStart us s).disp = s.disp := (rfl)
@[simp] theorem timerStart_last (us : Nat) (s : State) : (timerStart us s).last = s.last := (rfl)
@[simp] theorem timerStart_stepIntervalUs (us : Nat) (s : State) : (timerStart us s).stepIntervalUs = s.stepIntervalUs := (rfl)
@[simp] theorem timerStart_stepPin (us : Nat) (s : State) : (timerStart us s).stepPin = s.stepPin := (rfl)
@[simp] theorem timerStart_dir (us : Nat) (s : State) : (timerStart us s).dir = s.dir := (rfl)
@[simp] theorem timerStart_btnN (us : Nat) (s : State) : (timerStart us s).btnN = s.btnN := (rfl)
@[simp] theorem timerStart_phys (us : Nat) (s : State) : (timerStart us s).phys = s.phys := (rfl)
@[simp] theorem timerStart_pulsing (us : Nat) (s : State) : (timerStart us s).pulsing = s.pulsing := (rfl)
@[simp] theorem timerStart_writeCount (us : Nat) (s : State) : (timerStart us s).writeCount = s.writeCount := (rfl)
@[simp] theorem timerStart_stepCount (us : Nat) (s : State) : (timerStart us s).stepCount = s.stepCount := (rfl)
@[simp] theorem timerStart_history (us : Nat) (s : State) : (timerStart us s).history = .timerStart us :: s.history := (rfl)
@[simp] theorem timerStart_pastHorizon (us : Nat) (s : State) : (timerStart us s).pastHorizon = s.pastHorizon := (rfl)
@[simp] theorem timerStart_sig (us : Nat) (s : State) : (timerStart us s).sig = s.sig := (rfl)
@[simp] theorem timerStart_draws (us : Nat) (s : State) : (timerStart us s).draws = s.draws := (rfl)
@[simp] theorem timerStart_queue (us : Nat) (s : State) : (timerStart us s).queue = s.queue := (rfl)
@[simp] theorem timerStart_gaps (us : Nat) (s : State) : (timerStart us s).gaps = s.gaps := (rfl)

@[simp] theorem tickOnce_driveState (s : State) : (tickOnce s).driveState = s.driveState := (rfl)
@[simp] theorem tickOnce_steppingEn (s : State) : (tickOnce s).steppingEn = s.steppingEn := (rfl)
@[simp] theorem tickOnce_motorEn (s : State) : (tickOnce s).motorEn = s.motorEn := (rfl)
@[simp] theorem tickOnce_runDeadline (s : State) : (tickOnce s).runDeadline = s.runDeadline := (rfl)
@[simp] theorem tickOnce_factor (s : State) : (tickOnce s).factor = s.factor := (rfl)
@[simp] theorem tickOnce_rawMs (s : State) : (tickOnce s).rawMs = s.rawMs + 1 := (rfl)
@[simp] theorem tickOnce_prevBtn (s : State) : (tickOnce s).prevBtn = s.prevBtn := (rfl)
@[simp] theorem tickOnce_disp (s : State) : (tickOnce s).disp = s.disp := (rfl)
@[simp] theorem tickOnce_last (s : State) : (tickOnce s).last = s.last := (rfl)
@[simp] theorem tickOnce_stepIntervalUs (s : State) : (tickOnce s).stepIntervalUs = s.stepIntervalUs := (rfl)
@[simp] theorem tickOnce_stepPin (s : State) : (tickOnce s).stepPin = s.stepPin := (rfl)
@[simp] theorem tickOnce_dir (s : State) : (tickOnce s).dir = s.dir := (rfl)
@[simp] theorem tickOnce_btnN (s : State) : (tickOnce s).btnN = s.btnN := (rfl)
@[simp] theorem tickOnce_phys (s : State) : (tickOnce s).phys = s.phys := (rfl)
@[simp] theorem tickOnce_pulsing (s : State) : (tickOnce s).pulsing = s.pulsing := (rfl)
@[simp] theorem tickOnce_writeCount (s : State) : (tickOnce s).writeCount = s.writeCount := (rfl)
@[simp] theorem tickOnce_stepCount (s : State) : (tickOnce s).stepCount = s.stepCount := (rfl)
@[simp] theorem tickOnce_history (s : State) : (tickOnce s).history = s.history := (rfl)
@[simp] theorem tickOnce_pastHorizon (s : State) : (tickOnce s).pastHorizon = (s.pastHorizon || !inHorizon (s.rawMs + 1) s.factor) := (rfl)
@[simp] theorem tickOnce_sig (s : State) : (tickOnce s).sig = s.sig := (rfl)
@[simp] theorem tickOnce_draws (s : State) : (tickOnce s).draws = s.draws := (rfl)
@[simp] theorem tickOnce_queue (s : State) : (tickOnce s).queue = s.queue := (rfl)
@[simp] theorem tickOnce_gaps (s : State) : (tickOnce s).gaps = s.gaps := (rfl)

@[simp] theorem assertStep_driveState (s : State) : (assertStep s).driveState = s.driveState := (rfl)
@[simp] theorem assertStep_steppingEn (s : State) : (assertStep s).steppingEn = s.steppingEn := (rfl)
@[simp] theorem assertStep_motorEn (s : State) : (assertStep s).motorEn = s.motorEn := (rfl)
@[simp] theorem assertStep_runDeadline (s : State) : (assertStep s).runDeadline = s.runDeadline := (rfl)
@[simp] theorem assertStep_factor (s : State) : (assertStep s).factor = s.factor := (rfl)
@[simp] theorem assertStep_rawMs (s : State) : (assertStep s).rawMs = s.rawMs := (rfl)
@[simp] theorem assertStep_prevBtn (s : State) : (assertStep s).prevBtn = s.prevBtn := (rfl)
@[simp] theorem assertStep_disp (s : State) : (assertStep s).disp = s.disp := (rfl)
@[simp] theorem assertStep_last (s : State) : (assertStep s).last = s.last := (rfl)
@[simp] theorem assertStep_stepIntervalUs (s : State) : (assertStep s).stepIntervalUs = s.stepIntervalUs := (rfl)
@[simp] theorem assertStep_stepPin (s : State) : (assertStep s).stepPin = Config.stepActive := (rfl)
@[simp] theorem assertStep_dir (s : State) : (assertStep s).dir = s.dir := (rfl)
@[simp] theorem assertStep_btnN (s : State) : (assertStep s).btnN = s.btnN := (rfl)
@[simp] theorem assertStep_phys (s : State) : (assertStep s).phys = s.phys := (rfl)
@[simp] theorem assertStep_pulsing (s : State) : (assertStep s).pulsing = true := (rfl)
@[simp] theorem assertStep_writeCount (s : State) : (assertStep s).writeCount = s.writeCount := (rfl)
@[simp] theorem assertStep_stepCount (s : State) : (assertStep s).stepCount = s.stepCount := (rfl)
@[simp] theorem assertStep_history (s : State) : (assertStep s).history = .pinWrite .step Config.stepActive :: s.history := (rfl)
@[simp] theorem assertStep_pastHorizon (s : State) : (assertStep s).pastHorizon = s.pastHorizon := (rfl)
@[simp] theorem assertStep_sig (s : State) : (assertStep s).sig = s.sig := (rfl)
@[simp] theorem assertStep_draws (s : State) : (assertStep s).draws = s.draws := (rfl)
@[simp] theorem assertStep_queue (s : State) : (assertStep s).queue = s.queue := (rfl)
@[simp] theorem assertStep_gaps (s : State) : (assertStep s).gaps = s.gaps := (rfl)

@[simp] theorem deassertStep_driveState (s : State) : (deassertStep s).driveState = s.driveState := (rfl)
@[simp] theorem deassertStep_steppingEn (s : State) : (deassertStep s).steppingEn = s.steppingEn := (rfl)
@[simp] theorem deassertStep_motorEn (s : State) : (deassertStep s).motorEn = s.motorEn := (rfl)
@[simp] theorem deassertStep_runDeadline (s : State) : (deassertStep s).runDeadline = s.runDeadline := (rfl)
@[simp] theorem deassertStep_factor (s : State) : (deassertStep s).factor = s.factor := (rfl)
@[simp] theorem deassertStep_rawMs (s : State) : (deassertStep s).rawMs = s.rawMs := (rfl)
@[simp] theorem deassertStep_prevBtn (s : State) : (deassertStep s).prevBtn = s.prevBtn := (rfl)
@[simp] theorem deassertStep_disp (s : State) : (deassertStep s).disp = s.disp := (rfl)
@[simp] theorem deassertStep_last (s : State) : (deassertStep s).last = s.last := (rfl)
@[simp] theorem deassertStep_stepIntervalUs (s : State) : (deassertStep s).stepIntervalUs = s.stepIntervalUs := (rfl)
@[simp] theorem deassertStep_stepPin (s : State) : (deassertStep s).stepPin = 0 := (rfl)
@[simp] theorem deassertStep_dir (s : State) : (deassertStep s).dir = s.dir := (rfl)
@[simp] theorem deassertStep_btnN (s : State) : (deassertStep s).btnN = s.btnN := (rfl)
@[simp] theorem deassertStep_phys (s : State) : (deassertStep s).phys = s.phys := (rfl)
@[simp] theorem deassertStep_pulsing (s : State) : (deassertStep s).pulsing = false := (rfl)
@[simp] theorem deassertStep_writeCount (s : State) : (deassertStep s).writeCount = s.writeCount := (rfl)
@[simp] theorem deassertStep_stepCount (s : State) : (deassertStep s).stepCount = s.stepCount + 1 := (rfl)
@[simp] theorem deassertStep_history (s : State) : (deassertStep s).history = .pinWrite .step 0 :: s.history := (rfl)
@[simp] theorem deassertStep_pastHorizon (s : State) : (deassertStep s).pastHorizon = s.pastHorizon := (rfl)
@[simp] theorem deassertStep_sig (s : State) : (deassertStep s).sig = s.sig := (rfl)
@[simp] theorem deassertStep_draws (s : State) : (deassertStep s).draws = s.draws := (rfl)
@[simp] theorem deassertStep_queue (s : State) : (deassertStep s).queue = s.queue := (rfl)
@[simp] theorem deassertStep_gaps (s : State) : (deassertStep s).gaps = s.gaps := (rfl)

@[simp] theorem setSteppingEn_driveState (v : Bool) (s : State) : (setSteppingEn v s).driveState = s.driveState := (rfl)
@[simp] theorem setSteppingEn_steppingEn (v : Bool) (s : State) : (setSteppingEn v s).steppingEn = v := (rfl)
@[simp] theorem setSteppingEn_motorEn (v : Bool) (s : State) : (setSteppingEn v s).motorEn = s.motorEn := (rfl)
@[simp] theorem setSteppingEn_runDeadline (v : Bool) (s : State) : (setSteppingEn v s).runDeadline = s.runDeadline := (rfl)
@[simp] theorem setSteppingEn_factor (v : Bool) (s : State) : (setSteppingEn v s).factor = s.factor := (rfl)
@[simp] theorem setSteppingEn_rawMs (v : Bool) (s : State) : (setSteppingEn v s).rawMs = s.rawMs := (rfl)
@[simp] theorem setSteppingEn_prevBtn (v : Bool) (s : State) : (setSteppingEn v s).prevBtn = s.prevBtn := (rfl)
@[simp] theorem setSteppingEn_disp (v : Bool) (s : State) : (setSteppingEn v s).disp = s.disp := (rfl)
@[simp] theorem setSteppingEn_last (v : Bool) (s : State) : (setSteppingEn v s).last = s.last := (rfl)
@[simp] theorem setSteppingEn_stepIntervalUs (v : Bool) (s : State) : (setSteppingEn v s).stepIntervalUs = s.stepIntervalUs := (rfl)
@[simp] theorem setSteppingEn_stepPin (v : Bool) (s : State) : (setSteppingEn v s).stepPin = s.stepPin := (rfl)
@[simp] theorem setSteppingEn_dir (v : Bool) (s : State) : (setSteppingEn v s).dir = s.dir := (rfl)
@[simp] theorem setSteppingEn_btnN (v : Bool) (s : State) : (setSteppingEn v s).btnN = s.btnN := (rfl)
@[simp] theorem setSteppingEn_phys (v : Bool) (s : State) : (setSteppingEn v s).phys = s.phys := (rfl)
@[simp] theorem setSteppingEn_pulsing (v : Bool) (s : State) : (setSteppingEn v s).pulsing = s.pulsing := (rfl)
@[simp] theorem setSteppingEn_writeCount (v : Bool) (s : State) : (setSteppingEn v s).writeCount = s.writeCount := (rfl)
@[simp] theorem setSteppingEn_stepCount (v : Bool) (s : State) : (setSteppingEn v s).stepCount = s.stepCount := (rfl)
@[simp] theorem setSteppingEn_history (v : Bool) (s : State) : (setSteppingEn v s).history = s.history := (rfl)
@[simp] theorem setSteppingEn_pastHorizon (v : Bool) (s : State) : (setSteppingEn v s).pastHorizon = s.pastHorizon := (rfl)
@[simp] theorem setSteppingEn_sig (v : Bool) (s : State) : (setSteppingEn v s).sig = s.sig := (rfl)
@[simp] theorem setSteppingEn_draws (v : Bool) (s : State) : (setSteppingEn v s).draws = s.draws := (rfl)
@[simp] theorem setSteppingEn_queue (v : Bool) (s : State) : (setSteppingEn v s).queue = s.queue := (rfl)
@[simp] theorem setSteppingEn_gaps (v : Bool) (s : State) : (setSteppingEn v s).gaps = s.gaps := (rfl)

@[simp] theorem armDeadline_driveState (d : Time) (s : State) : (armDeadline d s).driveState = s.driveState := (rfl)
@[simp] theorem armDeadline_steppingEn (d : Time) (s : State) : (armDeadline d s).steppingEn = s.steppingEn := (rfl)
@[simp] theorem armDeadline_motorEn (d : Time) (s : State) : (armDeadline d s).motorEn = s.motorEn := (rfl)
@[simp] theorem armDeadline_runDeadline (d : Time) (s : State) : (armDeadline d s).runDeadline = d := (rfl)
@[simp] theorem armDeadline_factor (d : Time) (s : State) : (armDeadline d s).factor = s.factor := (rfl)
@[simp] theorem armDeadline_rawMs (d : Time) (s : State) : (armDeadline d s).rawMs = s.rawMs := (rfl)
@[simp] theorem armDeadline_prevBtn (d : Time) (s : State) : (armDeadline d s).prevBtn = s.prevBtn := (rfl)
@[simp] theorem armDeadline_disp (d : Time) (s : State) : (armDeadline d s).disp = s.disp := (rfl)
@[simp] theorem armDeadline_last (d : Time) (s : State) : (armDeadline d s).last = s.last := (rfl)
@[simp] theorem armDeadline_stepIntervalUs (d : Time) (s : State) : (armDeadline d s).stepIntervalUs = s.stepIntervalUs := (rfl)
@[simp] theorem armDeadline_stepPin (d : Time) (s : State) : (armDeadline d s).stepPin = s.stepPin := (rfl)
@[simp] theorem armDeadline_dir (d : Time) (s : State) : (armDeadline d s).dir = s.dir := (rfl)
@[simp] theorem armDeadline_btnN (d : Time) (s : State) : (armDeadline d s).btnN = s.btnN := (rfl)
@[simp] theorem armDeadline_phys (d : Time) (s : State) : (armDeadline d s).phys = s.phys := (rfl)
@[simp] theorem armDeadline_pulsing (d : Time) (s : State) : (armDeadline d s).pulsing = s.pulsing := (rfl)
@[simp] theorem armDeadline_writeCount (d : Time) (s : State) : (armDeadline d s).writeCount = s.writeCount := (rfl)
@[simp] theorem armDeadline_stepCount (d : Time) (s : State) : (armDeadline d s).stepCount = s.stepCount := (rfl)
@[simp] theorem armDeadline_history (d : Time) (s : State) : (armDeadline d s).history = s.history := (rfl)
@[simp] theorem armDeadline_pastHorizon (d : Time) (s : State) : (armDeadline d s).pastHorizon = s.pastHorizon := (rfl)
@[simp] theorem armDeadline_sig (d : Time) (s : State) : (armDeadline d s).sig = s.sig := (rfl)
@[simp] theorem armDeadline_draws (d : Time) (s : State) : (armDeadline d s).draws = s.draws := (rfl)
@[simp] theorem armDeadline_queue (d : Time) (s : State) : (armDeadline d s).queue = s.queue := (rfl)
@[simp] theorem armDeadline_gaps (d : Time) (s : State) : (armDeadline d s).gaps = s.gaps := (rfl)

@[simp] theorem setDriveState_driveState (st : DriveState) (s : State) : (setDriveState st s).driveState = st := (rfl)
@[simp] theorem setDriveState_steppingEn (st : DriveState) (s : State) : (setDriveState st s).steppingEn = s.steppingEn := (rfl)
@[simp] theorem setDriveState_motorEn (st : DriveState) (s : State) : (setDriveState st s).motorEn = s.motorEn := (rfl)
@[simp] theorem setDriveState_runDeadline (st : DriveState) (s : State) : (setDriveState st s).runDeadline = s.runDeadline := (rfl)
@[simp] theorem setDriveState_factor (st : DriveState) (s : State) : (setDriveState st s).factor = s.factor := (rfl)
@[simp] theorem setDriveState_rawMs (st : DriveState) (s : State) : (setDriveState st s).rawMs = s.rawMs := (rfl)
@[simp] theorem setDriveState_prevBtn (st : DriveState) (s : State) : (setDriveState st s).prevBtn = s.prevBtn := (rfl)
@[simp] theorem setDriveState_disp (st : DriveState) (s : State) : (setDriveState st s).disp = s.disp := (rfl)
@[simp] theorem setDriveState_last (st : DriveState) (s : State) : (setDriveState st s).last = s.last := (rfl)
@[simp] theorem setDriveState_stepIntervalUs (st : DriveState) (s : State) : (setDriveState st s).stepIntervalUs = s.stepIntervalUs := (rfl)
@[simp] theorem setDriveState_stepPin (st : DriveState) (s : State) : (setDriveState st s).stepPin = s.stepPin := (rfl)
@[simp] theorem setDriveState_dir (st : DriveState) (s : State) : (setDriveState st s).dir = s.dir := (rfl)
@[simp] theorem setDriveState_btnN (st : DriveState) (s : State) : (setDriveState st s).btnN = s.btnN := (rfl)
@[simp] theorem setDriveState_phys (st : DriveState) (s : State) : (setDriveState st s).phys = s.phys := (rfl)
@[simp] theorem setDriveState_pulsing (st : DriveState) (s : State) : (setDriveState st s).pulsing = s.pulsing := (rfl)
@[simp] theorem setDriveState_writeCount (st : DriveState) (s : State) : (setDriveState st s).writeCount = s.writeCount := (rfl)
@[simp] theorem setDriveState_stepCount (st : DriveState) (s : State) : (setDriveState st s).stepCount = s.stepCount := (rfl)
@[simp] theorem setDriveState_history (st : DriveState) (s : State) : (setDriveState st s).history = s.history := (rfl)
@[simp] theorem setDriveState_pastHorizon (st : DriveState) (s : State) : (setDriveState st s).pastHorizon = s.pastHorizon := (rfl)
@[simp] theorem setDriveState_sig (st : DriveState) (s : State) : (setDriveState st s).sig = s.sig := (rfl)
@[simp] theorem setDriveState_draws (st : DriveState) (s : State) : (setDriveState st s).draws = s.draws := (rfl)
@[simp] theorem setDriveState_queue (st : DriveState) (s : State) : (setDriveState st s).queue = s.queue := (rfl)
@[simp] theorem setDriveState_gaps (st : DriveState) (s : State) : (setDriveState st s).gaps = s.gaps := (rfl)

@[simp] theorem keepButton_driveState (s : State) : (keepButton s).driveState = s.driveState := (rfl)
@[simp] theorem keepButton_steppingEn (s : State) : (keepButton s).steppingEn = s.steppingEn := (rfl)
@[simp] theorem keepButton_motorEn (s : State) : (keepButton s).motorEn = s.motorEn := (rfl)
@[simp] theorem keepButton_runDeadline (s : State) : (keepButton s).runDeadline = s.runDeadline := (rfl)
@[simp] theorem keepButton_factor (s : State) : (keepButton s).factor = s.factor := (rfl)
@[simp] theorem keepButton_rawMs (s : State) : (keepButton s).rawMs = s.rawMs := (rfl)
@[simp] theorem keepButton_prevBtn (s : State) : (keepButton s).prevBtn = s.sig.cur := (rfl)
@[simp] theorem keepButton_disp (s : State) : (keepButton s).disp = s.disp := (rfl)
@[simp] theorem keepButton_last (s : State) : (keepButton s).last = s.last := (rfl)
@[simp] theorem keepButton_stepIntervalUs (s : State) : (keepButton s).stepIntervalUs = s.stepIntervalUs := (rfl)
@[simp] theorem keepButton_stepPin (s : State) : (keepButton s).stepPin = s.stepPin := (rfl)
@[simp] theorem keepButton_dir (s : State) : (keepButton s).dir = s.dir := (rfl)
@[simp] theorem keepButton_btnN (s : State) : (keepButton s).btnN = s.btnN := (rfl)
@[simp] theorem keepButton_phys (s : State) : (keepButton s).phys = s.phys := (rfl)
@[simp] theorem keepButton_pulsing (s : State) : (keepButton s).pulsing = s.pulsing := (rfl)
@[simp] theorem keepButton_writeCount (s : State) : (keepButton s).writeCount = s.writeCount := (rfl)
@[simp] theorem keepButton_stepCount (s : State) : (keepButton s).stepCount = s.stepCount := (rfl)
@[simp] theorem keepButton_history (s : State) : (keepButton s).history = s.history := (rfl)
@[simp] theorem keepButton_pastHorizon (s : State) : (keepButton s).pastHorizon = s.pastHorizon := (rfl)
@[simp] theorem keepButton_sig (s : State) : (keepButton s).sig = s.sig := (rfl)
@[simp] theorem keepButton_draws (s : State) : (keepButton s).draws = s.draws := (rfl)
@[simp] theorem keepButton_queue (s : State) : (keepButton s).queue = s.queue := (rfl)
@[simp] theorem keepButton_gaps (s : State) : (keepButton s).gaps = s.gaps := (rfl)

@[simp] theorem latchEdge_driveState (cur : Bit) (s : State) : (latchEdge cur s).driveState = s.driveState := (rfl)
@[simp] theorem latchEdge_steppingEn (cur : Bit) (s : State) : (latchEdge cur s).steppingEn = s.steppingEn := (rfl)
@[simp] theorem latchEdge_motorEn (cur : Bit) (s : State) : (latchEdge cur s).motorEn = s.motorEn := (rfl)
@[simp] theorem latchEdge_runDeadline (cur : Bit) (s : State) : (latchEdge cur s).runDeadline = s.runDeadline := (rfl)
@[simp] theorem latchEdge_factor (cur : Bit) (s : State) : (latchEdge cur s).factor = s.factor := (rfl)
@[simp] theorem latchEdge_rawMs (cur : Bit) (s : State) : (latchEdge cur s).rawMs = s.rawMs := (rfl)
@[simp] theorem latchEdge_prevBtn (cur : Bit) (s : State) : (latchEdge cur s).prevBtn = s.prevBtn := (rfl)
@[simp] theorem latchEdge_disp (cur : Bit) (s : State) : (latchEdge cur s).disp = s.disp := (rfl)
@[simp] theorem latchEdge_last (cur : Bit) (s : State) : (latchEdge cur s).last = s.last := (rfl)
@[simp] theorem latchEdge_stepIntervalUs (cur : Bit) (s : State) : (latchEdge cur s).stepIntervalUs = s.stepIntervalUs := (rfl)
@[simp] theorem latchEdge_stepPin (cur : Bit) (s : State) : (latchEdge cur s).stepPin = s.stepPin := (rfl)
@[simp] theorem latchEdge_dir (cur : Bit) (s : State) : (latchEdge cur s).dir = s.dir := (rfl)
@[simp] theorem latchEdge_btnN (cur : Bit) (s : State) : (latchEdge cur s).btnN = s.btnN := (rfl)
@[simp] theorem latchEdge_phys (cur : Bit) (s : State) : (latchEdge cur s).phys = s.phys := (rfl)
@[simp] theorem latchEdge_pulsing (cur : Bit) (s : State) : (latchEdge cur s).pulsing = s.pulsing := (rfl)
@[simp] theorem latchEdge_writeCount (cur : Bit) (s : State) : (latchEdge cur s).writeCount = s.writeCount := (rfl)
@[simp] theorem latchEdge_stepCount (cur : Bit) (s : State) : (latchEdge cur s).stepCount = s.stepCount := (rfl)
@[simp] theorem latchEdge_history (cur : Bit) (s : State) : (latchEdge cur s).history = s.history := (rfl)
@[simp] theorem latchEdge_pastHorizon (cur : Bit) (s : State) : (latchEdge cur s).pastHorizon = s.pastHorizon := (rfl)
@[simp] theorem latchEdge_sig (cur : Bit) (s : State) : (latchEdge cur s).sig = { s.sig with edge := pressEdge s.prevBtn cur } := (rfl)
@[simp] theorem latchEdge_draws (cur : Bit) (s : State) : (latchEdge cur s).draws = s.draws := (rfl)
@[simp] theorem latchEdge_queue (cur : Bit) (s : State) : (latchEdge cur s).queue = s.queue := (rfl)
@[simp] theorem latchEdge_gaps (cur : Bit) (s : State) : (latchEdge cur s).gaps = s.gaps := (rfl)

@[simp] theorem latchTime_driveState (s : State) : (latchTime s).driveState = s.driveState := (rfl)
@[simp] theorem latchTime_steppingEn (s : State) : (latchTime s).steppingEn = s.steppingEn := (rfl)
@[simp] theorem latchTime_motorEn (s : State) : (latchTime s).motorEn = s.motorEn := (rfl)
@[simp] theorem latchTime_runDeadline (s : State) : (latchTime s).runDeadline = s.runDeadline := (rfl)
@[simp] theorem latchTime_factor (s : State) : (latchTime s).factor = s.factor := (rfl)
@[simp] theorem latchTime_rawMs (s : State) : (latchTime s).rawMs = s.rawMs := (rfl)
@[simp] theorem latchTime_prevBtn (s : State) : (latchTime s).prevBtn = s.prevBtn := (rfl)
@[simp] theorem latchTime_disp (s : State) : (latchTime s).disp = s.disp := (rfl)
@[simp] theorem latchTime_last (s : State) : (latchTime s).last = s.last := (rfl)
@[simp] theorem latchTime_stepIntervalUs (s : State) : (latchTime s).stepIntervalUs = s.stepIntervalUs := (rfl)
@[simp] theorem latchTime_stepPin (s : State) : (latchTime s).stepPin = s.stepPin := (rfl)
@[simp] theorem latchTime_dir (s : State) : (latchTime s).dir = s.dir := (rfl)
@[simp] theorem latchTime_btnN (s : State) : (latchTime s).btnN = s.btnN := (rfl)
@[simp] theorem latchTime_phys (s : State) : (latchTime s).phys = s.phys := (rfl)
@[simp] theorem latchTime_pulsing (s : State) : (latchTime s).pulsing = s.pulsing := (rfl)
@[simp] theorem latchTime_writeCount (s : State) : (latchTime s).writeCount = s.writeCount := (rfl)
@[simp] theorem latchTime_stepCount (s : State) : (latchTime s).stepCount = s.stepCount := (rfl)
@[simp] theorem latchTime_history (s : State) : (latchTime s).history = s.history := (rfl)
@[simp] theorem latchTime_pastHorizon (s : State) : (latchTime s).pastHorizon = s.pastHorizon := (rfl)
@[simp] theorem latchTime_sig (s : State) : (latchTime s).sig = { s.sig with t := logicalNow s.rawMs s.factor } := (rfl)
@[simp] theorem latchTime_draws (s : State) : (latchTime s).draws = s.draws := (rfl)
@[simp] theorem latchTime_queue (s : State) : (latchTime s).queue = s.queue := (rfl)
@[simp] theorem latchTime_gaps (s : State) : (latchTime s).gaps = s.gaps := (rfl)

@[simp] theorem latchExpired_driveState (t : Time) (s : State) : (latchExpired t s).driveState = s.driveState := (rfl)
@[simp] theorem latchExpired_steppingEn (t : Time) (s : State) : (latchExpired t s).steppingEn = s.steppingEn := (rfl)
@[simp] theorem latchExpired_motorEn (t : Time) (s : State) : (latchExpired t s).motorEn = s.motorEn := (rfl)
@[simp] theorem latchExpired_runDeadline (t : Time) (s : State) : (latchExpired t s).runDeadline = s.runDeadline := (rfl)
@[simp] theorem latchExpired_factor (t : Time) (s : State) : (latchExpired t s).factor = s.factor := (rfl)
@[simp] theorem latchExpired_rawMs (t : Time) (s : State) : (latchExpired t s).rawMs = s.rawMs := (rfl)
@[simp] theorem latchExpired_prevBtn (t : Time) (s : State) : (latchExpired t s).prevBtn = s.prevBtn := (rfl)
@[simp] theorem latchExpired_disp (t : Time) (s : State) : (latchExpired t s).disp = s.disp := (rfl)
@[simp] theorem latchExpired_last (t : Time) (s : State) : (latchExpired t s).last = s.last := (rfl)
@[simp] theorem latchExpired_stepIntervalUs (t : Time) (s : State) : (latchExpired t s).stepIntervalUs = s.stepIntervalUs := (rfl)
@[simp] theorem latchExpired_stepPin (t : Time) (s : State) : (latchExpired t s).stepPin = s.stepPin := (rfl)
@[simp] theorem latchExpired_dir (t : Time) (s : State) : (latchExpired t s).dir = s.dir := (rfl)
@[simp] theorem latchExpired_btnN (t : Time) (s : State) : (latchExpired t s).btnN = s.btnN := (rfl)
@[simp] theorem latchExpired_phys (t : Time) (s : State) : (latchExpired t s).phys = s.phys := (rfl)
@[simp] theorem latchExpired_pulsing (t : Time) (s : State) : (latchExpired t s).pulsing = s.pulsing := (rfl)
@[simp] theorem latchExpired_writeCount (t : Time) (s : State) : (latchExpired t s).writeCount = s.writeCount := (rfl)
@[simp] theorem latchExpired_stepCount (t : Time) (s : State) : (latchExpired t s).stepCount = s.stepCount := (rfl)
@[simp] theorem latchExpired_history (t : Time) (s : State) : (latchExpired t s).history = s.history := (rfl)
@[simp] theorem latchExpired_pastHorizon (t : Time) (s : State) : (latchExpired t s).pastHorizon = s.pastHorizon := (rfl)
@[simp] theorem latchExpired_sig (t : Time) (s : State) : (latchExpired t s).sig = { s.sig with exp := s.driveState == .run && deadlineReached t s.runDeadline } := (rfl)
@[simp] theorem latchExpired_draws (t : Time) (s : State) : (latchExpired t s).draws = s.draws := (rfl)
@[simp] theorem latchExpired_queue (t : Time) (s : State) : (latchExpired t s).queue = s.queue := (rfl)
@[simp] theorem latchExpired_gaps (t : Time) (s : State) : (latchExpired t s).gaps = s.gaps := (rfl)

@[simp] theorem latchNext_driveState (sel : BitVec 4) (s : State) : (latchNext sel s).driveState = s.driveState := (rfl)
@[simp] theorem latchNext_steppingEn (sel : BitVec 4) (s : State) : (latchNext sel s).steppingEn = s.steppingEn := (rfl)
@[simp] theorem latchNext_motorEn (sel : BitVec 4) (s : State) : (latchNext sel s).motorEn = s.motorEn := (rfl)
@[simp] theorem latchNext_runDeadline (sel : BitVec 4) (s : State) : (latchNext sel s).runDeadline = s.runDeadline := (rfl)
@[simp] theorem latchNext_factor (sel : BitVec 4) (s : State) : (latchNext sel s).factor = s.factor := (rfl)
@[simp] theorem latchNext_rawMs (sel : BitVec 4) (s : State) : (latchNext sel s).rawMs = s.rawMs := (rfl)
@[simp] theorem latchNext_prevBtn (sel : BitVec 4) (s : State) : (latchNext sel s).prevBtn = s.prevBtn := (rfl)
@[simp] theorem latchNext_disp (sel : BitVec 4) (s : State) : (latchNext sel s).disp = s.disp := (rfl)
@[simp] theorem latchNext_last (sel : BitVec 4) (s : State) : (latchNext sel s).last = s.last := (rfl)
@[simp] theorem latchNext_stepIntervalUs (sel : BitVec 4) (s : State) : (latchNext sel s).stepIntervalUs = s.stepIntervalUs := (rfl)
@[simp] theorem latchNext_stepPin (sel : BitVec 4) (s : State) : (latchNext sel s).stepPin = s.stepPin := (rfl)
@[simp] theorem latchNext_dir (sel : BitVec 4) (s : State) : (latchNext sel s).dir = s.dir := (rfl)
@[simp] theorem latchNext_btnN (sel : BitVec 4) (s : State) : (latchNext sel s).btnN = s.btnN := (rfl)
@[simp] theorem latchNext_phys (sel : BitVec 4) (s : State) : (latchNext sel s).phys = s.phys := (rfl)
@[simp] theorem latchNext_pulsing (sel : BitVec 4) (s : State) : (latchNext sel s).pulsing = s.pulsing := (rfl)
@[simp] theorem latchNext_writeCount (sel : BitVec 4) (s : State) : (latchNext sel s).writeCount = s.writeCount := (rfl)
@[simp] theorem latchNext_stepCount (sel : BitVec 4) (s : State) : (latchNext sel s).stepCount = s.stepCount := (rfl)
@[simp] theorem latchNext_history (sel : BitVec 4) (s : State) : (latchNext sel s).history = s.history := (rfl)
@[simp] theorem latchNext_pastHorizon (sel : BitVec 4) (s : State) : (latchNext sel s).pastHorizon = s.pastHorizon := (rfl)
@[simp] theorem latchNext_sig (sel : BitVec 4) (s : State) : (latchNext sel s).sig = { s.sig with next := nextOf (selState sel) (selEdge sel) (selExp sel) } := (rfl)
@[simp] theorem latchNext_draws (sel : BitVec 4) (s : State) : (latchNext sel s).draws = s.draws := (rfl)
@[simp] theorem latchNext_queue (sel : BitVec 4) (s : State) : (latchNext sel s).queue = s.queue := (rfl)
@[simp] theorem latchNext_gaps (sel : BitVec 4) (s : State) : (latchNext sel s).gaps = s.gaps := (rfl)

@[simp] theorem latchSeg_driveState (v : Seg8) (s : State) : (latchSeg v s).driveState = s.driveState := (rfl)
@[simp] theorem latchSeg_steppingEn (v : Seg8) (s : State) : (latchSeg v s).steppingEn = s.steppingEn := (rfl)
@[simp] theorem latchSeg_motorEn (v : Seg8) (s : State) : (latchSeg v s).motorEn = s.motorEn := (rfl)
@[simp] theorem latchSeg_runDeadline (v : Seg8) (s : State) : (latchSeg v s).runDeadline = s.runDeadline := (rfl)
@[simp] theorem latchSeg_factor (v : Seg8) (s : State) : (latchSeg v s).factor = s.factor := (rfl)
@[simp] theorem latchSeg_rawMs (v : Seg8) (s : State) : (latchSeg v s).rawMs = s.rawMs := (rfl)
@[simp] theorem latchSeg_prevBtn (v : Seg8) (s : State) : (latchSeg v s).prevBtn = s.prevBtn := (rfl)
@[simp] theorem latchSeg_disp (v : Seg8) (s : State) : (latchSeg v s).disp = s.disp := (rfl)
@[simp] theorem latchSeg_last (v : Seg8) (s : State) : (latchSeg v s).last = s.last := (rfl)
@[simp] theorem latchSeg_stepIntervalUs (v : Seg8) (s : State) : (latchSeg v s).stepIntervalUs = s.stepIntervalUs := (rfl)
@[simp] theorem latchSeg_stepPin (v : Seg8) (s : State) : (latchSeg v s).stepPin = s.stepPin := (rfl)
@[simp] theorem latchSeg_dir (v : Seg8) (s : State) : (latchSeg v s).dir = s.dir := (rfl)
@[simp] theorem latchSeg_btnN (v : Seg8) (s : State) : (latchSeg v s).btnN = s.btnN := (rfl)
@[simp] theorem latchSeg_phys (v : Seg8) (s : State) : (latchSeg v s).phys = s.phys := (rfl)
@[simp] theorem latchSeg_pulsing (v : Seg8) (s : State) : (latchSeg v s).pulsing = s.pulsing := (rfl)
@[simp] theorem latchSeg_writeCount (v : Seg8) (s : State) : (latchSeg v s).writeCount = s.writeCount := (rfl)
@[simp] theorem latchSeg_stepCount (v : Seg8) (s : State) : (latchSeg v s).stepCount = s.stepCount := (rfl)
@[simp] theorem latchSeg_history (v : Seg8) (s : State) : (latchSeg v s).history = s.history := (rfl)
@[simp] theorem latchSeg_pastHorizon (v : Seg8) (s : State) : (latchSeg v s).pastHorizon = s.pastHorizon := (rfl)
@[simp] theorem latchSeg_sig (v : Seg8) (s : State) : (latchSeg v s).sig = { s.sig with seg := v } := (rfl)
@[simp] theorem latchSeg_draws (v : Seg8) (s : State) : (latchSeg v s).draws = s.draws := (rfl)
@[simp] theorem latchSeg_queue (v : Seg8) (s : State) : (latchSeg v s).queue = s.queue := (rfl)
@[simp] theorem latchSeg_gaps (v : Seg8) (s : State) : (latchSeg v s).gaps = s.gaps := (rfl)

@[simp] theorem latchPattern_driveState (p : Pattern) (s : State) : (latchPattern p s).driveState = s.driveState := (rfl)
@[simp] theorem latchPattern_steppingEn (p : Pattern) (s : State) : (latchPattern p s).steppingEn = s.steppingEn := (rfl)
@[simp] theorem latchPattern_motorEn (p : Pattern) (s : State) : (latchPattern p s).motorEn = s.motorEn := (rfl)
@[simp] theorem latchPattern_runDeadline (p : Pattern) (s : State) : (latchPattern p s).runDeadline = s.runDeadline := (rfl)
@[simp] theorem latchPattern_factor (p : Pattern) (s : State) : (latchPattern p s).factor = s.factor := (rfl)
@[simp] theorem latchPattern_rawMs (p : Pattern) (s : State) : (latchPattern p s).rawMs = s.rawMs := (rfl)
@[simp] theorem latchPattern_prevBtn (p : Pattern) (s : State) : (latchPattern p s).prevBtn = s.prevBtn := (rfl)
@[simp] theorem latchPattern_disp (p : Pattern) (s : State) : (latchPattern p s).disp = s.disp := (rfl)
@[simp] theorem latchPattern_last (p : Pattern) (s : State) : (latchPattern p s).last = s.last := (rfl)
@[simp] theorem latchPattern_stepIntervalUs (p : Pattern) (s : State) : (latchPattern p s).stepIntervalUs = s.stepIntervalUs := (rfl)
@[simp] theorem latchPattern_stepPin (p : Pattern) (s : State) : (latchPattern p s).stepPin = s.stepPin := (rfl)
@[simp] theorem latchPattern_dir (p : Pattern) (s : State) : (latchPattern p s).dir = s.dir := (rfl)
@[simp] theorem latchPattern_btnN (p : Pattern) (s : State) : (latchPattern p s).btnN = s.btnN := (rfl)
@[simp] theorem latchPattern_phys (p : Pattern) (s : State) : (latchPattern p s).phys = s.phys := (rfl)
@[simp] theorem latchPattern_pulsing (p : Pattern) (s : State) : (latchPattern p s).pulsing = s.pulsing := (rfl)
@[simp] theorem latchPattern_writeCount (p : Pattern) (s : State) : (latchPattern p s).writeCount = s.writeCount := (rfl)
@[simp] theorem latchPattern_stepCount (p : Pattern) (s : State) : (latchPattern p s).stepCount = s.stepCount := (rfl)
@[simp] theorem latchPattern_history (p : Pattern) (s : State) : (latchPattern p s).history = s.history := (rfl)
@[simp] theorem latchPattern_pastHorizon (p : Pattern) (s : State) : (latchPattern p s).pastHorizon = s.pastHorizon := (rfl)
@[simp] theorem latchPattern_sig (p : Pattern) (s : State) : (latchPattern p s).sig = { s.sig with pat := p } := (rfl)
@[simp] theorem latchPattern_draws (p : Pattern) (s : State) : (latchPattern p s).draws = s.draws := (rfl)
@[simp] theorem latchPattern_queue (p : Pattern) (s : State) : (latchPattern p s).queue = s.queue := (rfl)
@[simp] theorem latchPattern_gaps (p : Pattern) (s : State) : (latchPattern p s).gaps = s.gaps := (rfl)

@[simp] theorem discardSignals_driveState (s : State) : (discardSignals s).driveState = s.driveState := (rfl)
@[simp] theorem discardSignals_steppingEn (s : State) : (discardSignals s).steppingEn = s.steppingEn := (rfl)
@[simp] theorem discardSignals_motorEn (s : State) : (discardSignals s).motorEn = s.motorEn := (rfl)
@[simp] theorem discardSignals_runDeadline (s : State) : (discardSignals s).runDeadline = s.runDeadline := (rfl)
@[simp] theorem discardSignals_factor (s : State) : (discardSignals s).factor = s.factor := (rfl)
@[simp] theorem discardSignals_rawMs (s : State) : (discardSignals s).rawMs = s.rawMs := (rfl)
@[simp] theorem discardSignals_prevBtn (s : State) : (discardSignals s).prevBtn = s.prevBtn := (rfl)
@[simp] theorem discardSignals_disp (s : State) : (discardSignals s).disp = s.disp := (rfl)
@[simp] theorem discardSignals_last (s : State) : (discardSignals s).last = s.last := (rfl)
@[simp] theorem discardSignals_stepIntervalUs (s : State) : (discardSignals s).stepIntervalUs = s.stepIntervalUs := (rfl)
@[simp] theorem discardSignals_stepPin (s : State) : (discardSignals s).stepPin = s.stepPin := (rfl)
@[simp] theorem discardSignals_dir (s : State) : (discardSignals s).dir = s.dir := (rfl)
@[simp] theorem discardSignals_btnN (s : State) : (discardSignals s).btnN = s.btnN := (rfl)
@[simp] theorem discardSignals_phys (s : State) : (discardSignals s).phys = s.phys := (rfl)
@[simp] theorem discardSignals_pulsing (s : State) : (discardSignals s).pulsing = s.pulsing := (rfl)
@[simp] theorem discardSignals_writeCount (s : State) : (discardSignals s).writeCount = s.writeCount := (rfl)
@[simp] theorem discardSignals_stepCount (s : State) : (discardSignals s).stepCount = s.stepCount := (rfl)
@[simp] theorem discardSignals_history (s : State) : (discardSignals s).history = s.history := (rfl)
@[simp] theorem discardSignals_pastHorizon (s : State) : (discardSignals s).pastHorizon = s.pastHorizon := (rfl)
@[simp] theorem discardSignals_sig (s : State) : (discardSignals s).sig = Signals.none := (rfl)
@[simp] theorem discardSignals_draws (s : State) : (discardSignals s).draws = s.draws := (rfl)
@[simp] theorem discardSignals_queue (s : State) : (discardSignals s).queue = s.queue := (rfl)
@[simp] theorem discardSignals_gaps (s : State) : (discardSignals s).gaps = s.gaps := (rfl)

@[simp] theorem requestPattern_driveState (p : Pattern) (s : State) : (requestPattern p s).driveState = s.driveState := (rfl)
@[simp] theorem requestPattern_steppingEn (p : Pattern) (s : State) : (requestPattern p s).steppingEn = s.steppingEn := (rfl)
@[simp] theorem requestPattern_motorEn (p : Pattern) (s : State) : (requestPattern p s).motorEn = s.motorEn := (rfl)
@[simp] theorem requestPattern_runDeadline (p : Pattern) (s : State) : (requestPattern p s).runDeadline = s.runDeadline := (rfl)
@[simp] theorem requestPattern_factor (p : Pattern) (s : State) : (requestPattern p s).factor = s.factor := (rfl)
@[simp] theorem requestPattern_rawMs (p : Pattern) (s : State) : (requestPattern p s).rawMs = s.rawMs := (rfl)
@[simp] theorem requestPattern_prevBtn (p : Pattern) (s : State) : (requestPattern p s).prevBtn = s.prevBtn := (rfl)
@[simp] theorem requestPattern_disp (p : Pattern) (s : State) : (requestPattern p s).disp = p := (rfl)
@[simp] theorem requestPattern_last (p : Pattern) (s : State) : (requestPattern p s).last = s.last := (rfl)
@[simp] theorem requestPattern_stepIntervalUs (p : Pattern) (s : State) : (requestPattern p s).stepIntervalUs = s.stepIntervalUs := (rfl)
@[simp] theorem requestPattern_stepPin (p : Pattern) (s : State) : (requestPattern p s).stepPin = s.stepPin := (rfl)
@[simp] theorem requestPattern_dir (p : Pattern) (s : State) : (requestPattern p s).dir = s.dir := (rfl)
@[simp] theorem requestPattern_btnN (p : Pattern) (s : State) : (requestPattern p s).btnN = s.btnN := (rfl)
@[simp] theorem requestPattern_phys (p : Pattern) (s : State) : (requestPattern p s).phys = s.phys := (rfl)
@[simp] theorem requestPattern_pulsing (p : Pattern) (s : State) : (requestPattern p s).pulsing = s.pulsing := (rfl)
@[simp] theorem requestPattern_writeCount (p : Pattern) (s : State) : (requestPattern p s).writeCount = s.writeCount := (rfl)
@[simp] theorem requestPattern_stepCount (p : Pattern) (s : State) : (requestPattern p s).stepCount = s.stepCount := (rfl)
@[simp] theorem requestPattern_history (p : Pattern) (s : State) : (requestPattern p s).history = s.history := (rfl)
@[simp] theorem requestPattern_pastHorizon (p : Pattern) (s : State) : (requestPattern p s).pastHorizon = s.pastHorizon := (rfl)
@[simp] theorem requestPattern_sig (p : Pattern) (s : State) : (requestPattern p s).sig = s.sig := (rfl)
@[simp] theorem requestPattern_draws (p : Pattern) (s : State) : (requestPattern p s).draws = s.draws := (rfl)
@[simp] theorem requestPattern_queue (p : Pattern) (s : State) : (requestPattern p s).queue = s.queue := (rfl)
@[simp] theorem requestPattern_gaps (p : Pattern) (s : State) : (requestPattern p s).gaps = s.gaps := (rfl)

@[simp] theorem keepPattern_driveState (s : State) : (keepPattern s).driveState = s.driveState := (rfl)
@[simp] theorem keepPattern_steppingEn (s : State) : (keepPattern s).steppingEn = s.steppingEn := (rfl)
@[simp] theorem keepPattern_motorEn (s : State) : (keepPattern s).motorEn = s.motorEn := (rfl)
@[simp] theorem keepPattern_runDeadline (s : State) : (keepPattern s).runDeadline = s.runDeadline := (rfl)
@[simp] theorem keepPattern_factor (s : State) : (keepPattern s).factor = s.factor := (rfl)
@[simp] theorem keepPattern_rawMs (s : State) : (keepPattern s).rawMs = s.rawMs := (rfl)
@[simp] theorem keepPattern_prevBtn (s : State) : (keepPattern s).prevBtn = s.prevBtn := (rfl)
@[simp] theorem keepPattern_disp (s : State) : (keepPattern s).disp = s.disp := (rfl)
@[simp] theorem keepPattern_last (s : State) : (keepPattern s).last = s.disp := (rfl)
@[simp] theorem keepPattern_stepIntervalUs (s : State) : (keepPattern s).stepIntervalUs = s.stepIntervalUs := (rfl)
@[simp] theorem keepPattern_stepPin (s : State) : (keepPattern s).stepPin = s.stepPin := (rfl)
@[simp] theorem keepPattern_dir (s : State) : (keepPattern s).dir = s.dir := (rfl)
@[simp] theorem keepPattern_btnN (s : State) : (keepPattern s).btnN = s.btnN := (rfl)
@[simp] theorem keepPattern_phys (s : State) : (keepPattern s).phys = s.phys := (rfl)
@[simp] theorem keepPattern_pulsing (s : State) : (keepPattern s).pulsing = s.pulsing := (rfl)
@[simp] theorem keepPattern_writeCount (s : State) : (keepPattern s).writeCount = s.writeCount := (rfl)
@[simp] theorem keepPattern_stepCount (s : State) : (keepPattern s).stepCount = s.stepCount := (rfl)
@[simp] theorem keepPattern_history (s : State) : (keepPattern s).history = s.history := (rfl)
@[simp] theorem keepPattern_pastHorizon (s : State) : (keepPattern s).pastHorizon = s.pastHorizon := (rfl)
@[simp] theorem keepPattern_sig (s : State) : (keepPattern s).sig = s.sig := (rfl)
@[simp] theorem keepPattern_draws (s : State) : (keepPattern s).draws = s.draws := (rfl)
@[simp] theorem keepPattern_queue (s : State) : (keepPattern s).queue = s.queue := (rfl)
@[simp] theorem keepPattern_gaps (s : State) : (keepPattern s).gaps = s.gaps := (rfl)

@[simp] theorem setBootMode_driveState (b : Bit) (s : State) : (setBootMode b s).driveState = s.driveState := (rfl)
@[simp] theorem setBootMode_steppingEn (b : Bit) (s : State) : (setBootMode b s).steppingEn = s.steppingEn := (rfl)
@[simp] theorem setBootMode_motorEn (b : Bit) (s : State) : (setBootMode b s).motorEn = s.motorEn := (rfl)
@[simp] theorem setBootMode_runDeadline (b : Bit) (s : State) : (setBootMode b s).runDeadline = s.runDeadline := (rfl)
@[simp] theorem setBootMode_factor (b : Bit) (s : State) : (setBootMode b s).factor = bootFactor b := (rfl)
@[simp] theorem setBootMode_rawMs (b : Bit) (s : State) : (setBootMode b s).rawMs = s.rawMs := (rfl)
@[simp] theorem setBootMode_prevBtn (b : Bit) (s : State) : (setBootMode b s).prevBtn = s.prevBtn := (rfl)
@[simp] theorem setBootMode_disp (b : Bit) (s : State) : (setBootMode b s).disp = s.disp := (rfl)
@[simp] theorem setBootMode_last (b : Bit) (s : State) : (setBootMode b s).last = s.last := (rfl)
@[simp] theorem setBootMode_stepIntervalUs (b : Bit) (s : State) : (setBootMode b s).stepIntervalUs = s.stepIntervalUs := (rfl)
@[simp] theorem setBootMode_stepPin (b : Bit) (s : State) : (setBootMode b s).stepPin = s.stepPin := (rfl)
@[simp] theorem setBootMode_dir (b : Bit) (s : State) : (setBootMode b s).dir = s.dir := (rfl)
@[simp] theorem setBootMode_btnN (b : Bit) (s : State) : (setBootMode b s).btnN = s.btnN := (rfl)
@[simp] theorem setBootMode_phys (b : Bit) (s : State) : (setBootMode b s).phys = s.phys := (rfl)
@[simp] theorem setBootMode_pulsing (b : Bit) (s : State) : (setBootMode b s).pulsing = s.pulsing := (rfl)
@[simp] theorem setBootMode_writeCount (b : Bit) (s : State) : (setBootMode b s).writeCount = s.writeCount := (rfl)
@[simp] theorem setBootMode_stepCount (b : Bit) (s : State) : (setBootMode b s).stepCount = s.stepCount := (rfl)
@[simp] theorem setBootMode_history (b : Bit) (s : State) : (setBootMode b s).history = s.history := (rfl)
@[simp] theorem setBootMode_pastHorizon (b : Bit) (s : State) : (setBootMode b s).pastHorizon = s.pastHorizon := (rfl)
@[simp] theorem setBootMode_sig (b : Bit) (s : State) : (setBootMode b s).sig = s.sig := (rfl)
@[simp] theorem setBootMode_draws (b : Bit) (s : State) : (setBootMode b s).draws = s.draws := (rfl)
@[simp] theorem setBootMode_queue (b : Bit) (s : State) : (setBootMode b s).queue = s.queue := (rfl)
@[simp] theorem setBootMode_gaps (b : Bit) (s : State) : (setBootMode b s).gaps = s.gaps := (rfl)

@[simp] theorem setStepInterval_driveState (s : State) : (setStepInterval s).driveState = s.driveState := (rfl)
@[simp] theorem setStepInterval_steppingEn (s : State) : (setStepInterval s).steppingEn = s.steppingEn := (rfl)
@[simp] theorem setStepInterval_motorEn (s : State) : (setStepInterval s).motorEn = s.motorEn := (rfl)
@[simp] theorem setStepInterval_runDeadline (s : State) : (setStepInterval s).runDeadline = s.runDeadline := (rfl)
@[simp] theorem setStepInterval_factor (s : State) : (setStepInterval s).factor = s.factor := (rfl)
@[simp] theorem setStepInterval_rawMs (s : State) : (setStepInterval s).rawMs = s.rawMs := (rfl)
@[simp] theorem setStepInterval_prevBtn (s : State) : (setStepInterval s).prevBtn = s.prevBtn := (rfl)
@[simp] theorem setStepInterval_disp (s : State) : (setStepInterval s).disp = s.disp := (rfl)
@[simp] theorem setStepInterval_last (s : State) : (setStepInterval s).last = s.last := (rfl)
@[simp] theorem setStepInterval_stepIntervalUs (s : State) : (setStepInterval s).stepIntervalUs = stepIntervalOf s.factor := (rfl)
@[simp] theorem setStepInterval_stepPin (s : State) : (setStepInterval s).stepPin = s.stepPin := (rfl)
@[simp] theorem setStepInterval_dir (s : State) : (setStepInterval s).dir = s.dir := (rfl)
@[simp] theorem setStepInterval_btnN (s : State) : (setStepInterval s).btnN = s.btnN := (rfl)
@[simp] theorem setStepInterval_phys (s : State) : (setStepInterval s).phys = s.phys := (rfl)
@[simp] theorem setStepInterval_pulsing (s : State) : (setStepInterval s).pulsing = s.pulsing := (rfl)
@[simp] theorem setStepInterval_writeCount (s : State) : (setStepInterval s).writeCount = s.writeCount := (rfl)
@[simp] theorem setStepInterval_stepCount (s : State) : (setStepInterval s).stepCount = s.stepCount := (rfl)
@[simp] theorem setStepInterval_history (s : State) : (setStepInterval s).history = s.history := (rfl)
@[simp] theorem setStepInterval_pastHorizon (s : State) : (setStepInterval s).pastHorizon = s.pastHorizon := (rfl)
@[simp] theorem setStepInterval_sig (s : State) : (setStepInterval s).sig = s.sig := (rfl)
@[simp] theorem setStepInterval_draws (s : State) : (setStepInterval s).draws = s.draws := (rfl)
@[simp] theorem setStepInterval_queue (s : State) : (setStepInterval s).queue = s.queue := (rfl)
@[simp] theorem setStepInterval_gaps (s : State) : (setStepInterval s).gaps = s.gaps := (rfl)

@[simp] theorem setMotorEn_driveState (v : Bool) (s : State) : (setMotorEn v s).driveState = s.driveState := (rfl)
@[simp] theorem setMotorEn_steppingEn (v : Bool) (s : State) : (setMotorEn v s).steppingEn = s.steppingEn := (rfl)
@[simp] theorem setMotorEn_motorEn (v : Bool) (s : State) : (setMotorEn v s).motorEn = v := by cases v <;> rfl
@[simp] theorem setMotorEn_runDeadline (v : Bool) (s : State) : (setMotorEn v s).runDeadline = s.runDeadline := (rfl)
@[simp] theorem setMotorEn_factor (v : Bool) (s : State) : (setMotorEn v s).factor = s.factor := (rfl)
@[simp] theorem setMotorEn_rawMs (v : Bool) (s : State) : (setMotorEn v s).rawMs = s.rawMs := (rfl)
@[simp] theorem setMotorEn_prevBtn (v : Bool) (s : State) : (setMotorEn v s).prevBtn = s.prevBtn := (rfl)
@[simp] theorem setMotorEn_disp (v : Bool) (s : State) : (setMotorEn v s).disp = s.disp := (rfl)
@[simp] theorem setMotorEn_last (v : Bool) (s : State) : (setMotorEn v s).last = s.last := (rfl)
@[simp] theorem setMotorEn_stepIntervalUs (v : Bool) (s : State) : (setMotorEn v s).stepIntervalUs = s.stepIntervalUs := (rfl)
@[simp] theorem setMotorEn_stepPin (v : Bool) (s : State) : (setMotorEn v s).stepPin = s.stepPin := (rfl)
@[simp] theorem setMotorEn_dir (v : Bool) (s : State) : (setMotorEn v s).dir = s.dir := (rfl)
@[simp] theorem setMotorEn_btnN (v : Bool) (s : State) : (setMotorEn v s).btnN = s.btnN := (rfl)
@[simp] theorem setMotorEn_phys (v : Bool) (s : State) : (setMotorEn v s).phys = s.phys := (rfl)
@[simp] theorem setMotorEn_pulsing (v : Bool) (s : State) : (setMotorEn v s).pulsing = s.pulsing := (rfl)
@[simp] theorem setMotorEn_writeCount (v : Bool) (s : State) : (setMotorEn v s).writeCount = s.writeCount := (rfl)
@[simp] theorem setMotorEn_stepCount (v : Bool) (s : State) : (setMotorEn v s).stepCount = s.stepCount := (rfl)
@[simp] theorem setMotorEn_history (v : Bool) (s : State) :
    (setMotorEn v s).history = .pinWrite .motorEnN (if v then 0 else 1) :: s.history := (rfl)
@[simp] theorem setMotorEn_pastHorizon (v : Bool) (s : State) : (setMotorEn v s).pastHorizon = s.pastHorizon := (rfl)
@[simp] theorem setMotorEn_sig (v : Bool) (s : State) : (setMotorEn v s).sig = s.sig := (rfl)
@[simp] theorem setMotorEn_draws (v : Bool) (s : State) : (setMotorEn v s).draws = s.draws := (rfl)
@[simp] theorem setMotorEn_queue (v : Bool) (s : State) : (setMotorEn v s).queue = s.queue := (rfl)
@[simp] theorem setMotorEn_gaps (v : Bool) (s : State) : (setMotorEn v s).gaps = s.gaps := (rfl)

end Sys2Proof.Machine
end

