-- ==== Sys2Proof/Laws/Ops.lean ====
section
/-! SUPPORT. What each shared operation can do, said once: preemption (20_memory.md R62), the timer callback
(41_step_pulse.md R112), the renderer (42_display.md R140) and the entry actions (44_state_machine.md R174 to R176). -/

namespace Sys2Proof.Machine

/-! ## Preemption -/

theorem sameButPreempted_refl (s : State) : s.sameButPreempted s := rfl

theorem sameButPreempted_trans {s t u : State} (h : s.sameButPreempted t) (k : t.sameButPreempted u) :
    s.sameButPreempted u := by
  unfold State.sameButPreempted at *
  rw [h, k]

/-- Up to preemption is equality of every field the main loop owns. -/
theorem sameButPreempted_iff (t u : State) : t.sameButPreempted u ↔
    t.driveState = u.driveState ∧
    t.steppingEn = u.steppingEn ∧
    t.motorEn = u.motorEn ∧
    t.runDeadline = u.runDeadline ∧
    t.factor = u.factor ∧
    t.prevBtn = u.prevBtn ∧
    t.disp = u.disp ∧
    t.last = u.last ∧
    t.stepIntervalUs = u.stepIntervalUs ∧
    t.dir = u.dir ∧
    t.btnN = u.btnN ∧
    t.phys = u.phys ∧
    t.writeCount = u.writeCount ∧
    t.sig = u.sig ∧
    t.draws = u.draws ∧
    t.queue = u.queue := by
  unfold State.sameButPreempted
  constructor
  · intro h
    rw [h]
    simp
  · rintro ⟨h1, h2, h3, h4, h5, h6, h7, h8, h9, h10, h11, h12, h13, h14, h15, h16⟩
    ext : 1 <;> simp [*]

theorem firePulse_frame (s : State) : (firePulse s).sameButPreempted s := by
  unfold firePulse State.sameButPreempted
  split <;> rfl

theorem runPreempt_frame (s : State) (e : Preempt) : (runPreempt s e).sameButPreempted s := by
  cases e
  · rfl
  · exact firePulse_frame s

theorem foldl_runPreempt_frame (g : List Preempt) (s : State) :
    (g.foldl runPreempt s).sameButPreempted s := by
  induction g generalizing s with
  | nil => rfl
  | cons e g ih => exact sameButPreempted_trans (ih _) (runPreempt_frame s e)

theorem withGaps_frame (g : List (List Preempt)) (s : State) : { s with gaps := g }.sameButPreempted s := rfl

/-- Nothing but the preempting agents' own fields changes in a gap (10_state.md R40). -/
theorem preemptPoint_frame (s : State) : (preemptPoint s).sameButPreempted s := by
  unfold preemptPoint
  split
  · rfl
  · exact sameButPreempted_trans (foldl_runPreempt_frame _ _) (withGaps_frame _ s)

theorem holdPoint_frame (s : State) : (holdPoint s).sameButPreempted s := by
  unfold holdPoint
  split
  · rfl
  · exact sameButPreempted_trans (foldl_runPreempt_frame _ _) (withGaps_frame _ s)

theorem drainGaps_frame (s : State) : (drainGaps s).sameButPreempted s :=
  sameButPreempted_trans (foldl_runPreempt_frame _ _) (withGaps_frame _ s)

theorem fireEvent_frame (s : State) : (fireEvent s).sameButPreempted s := by
  unfold fireEvent
  split
  · have h := holdPoint_frame (assertStep s)
    unfold State.sameButPreempted at h ⊢
    rw [h]
    rfl
  · rfl

/-- With nothing placed in the gaps a gap is nothing. -/
theorem preemptPoint_noGaps {s : State} (h : s.gaps = []) : preemptPoint s = s := by
  unfold preemptPoint
  rw [h]

theorem holdPoint_noGaps {s : State} (h : s.gaps = []) : holdPoint s = s := by
  unfold holdPoint
  rw [h]

theorem drainGaps_noGaps {s : State} (h : s.gaps = []) : drainGaps s = s := by
  unfold drainGaps
  rw [h]
  ext : 1 <;> simp [h]

theorem drainGaps_gaps (s : State) : (drainGaps s).gaps = [] := by
  have key : ∀ (g : List Preempt) (u : State), (g.foldl runPreempt u).gaps = u.gaps := by
    intro g
    induction g with
    | nil => intro u; rfl
    | cons e g ih =>
      intro u
      refine (ih _).trans ?_
      cases e
      · rfl
      · show (firePulse u).gaps = u.gaps
        unfold firePulse
        split <;> rfl
  exact key _ _

@[simp] theorem preemptPoint_driveState (s : State) : (preemptPoint s).driveState = s.driveState := by rw [preemptPoint_frame s]
@[simp] theorem preemptPoint_steppingEn (s : State) : (preemptPoint s).steppingEn = s.steppingEn := by rw [preemptPoint_frame s]
@[simp] theorem preemptPoint_motorEn (s : State) : (preemptPoint s).motorEn = s.motorEn := by rw [preemptPoint_frame s]
@[simp] theorem preemptPoint_runDeadline (s : State) : (preemptPoint s).runDeadline = s.runDeadline := by rw [preemptPoint_frame s]
@[simp] theorem preemptPoint_factor (s : State) : (preemptPoint s).factor = s.factor := by rw [preemptPoint_frame s]
@[simp] theorem preemptPoint_prevBtn (s : State) : (preemptPoint s).prevBtn = s.prevBtn := by rw [preemptPoint_frame s]
@[simp] theorem preemptPoint_disp (s : State) : (preemptPoint s).disp = s.disp := by rw [preemptPoint_frame s]
@[simp] theorem preemptPoint_last (s : State) : (preemptPoint s).last = s.last := by rw [preemptPoint_frame s]
@[simp] theorem preemptPoint_stepIntervalUs (s : State) : (preemptPoint s).stepIntervalUs = s.stepIntervalUs := by rw [preemptPoint_frame s]
@[simp] theorem preemptPoint_dir (s : State) : (preemptPoint s).dir = s.dir := by rw [preemptPoint_frame s]
@[simp] theorem preemptPoint_btnN (s : State) : (preemptPoint s).btnN = s.btnN := by rw [preemptPoint_frame s]
@[simp] theorem preemptPoint_phys (s : State) : (preemptPoint s).phys = s.phys := by rw [preemptPoint_frame s]
@[simp] theorem preemptPoint_writeCount (s : State) : (preemptPoint s).writeCount = s.writeCount := by rw [preemptPoint_frame s]
@[simp] theorem preemptPoint_sig (s : State) : (preemptPoint s).sig = s.sig := by rw [preemptPoint_frame s]
@[simp] theorem preemptPoint_draws (s : State) : (preemptPoint s).draws = s.draws := by rw [preemptPoint_frame s]
@[simp] theorem preemptPoint_queue (s : State) : (preemptPoint s).queue = s.queue := by rw [preemptPoint_frame s]

@[simp] theorem drainGaps_driveState (s : State) : (drainGaps s).driveState = s.driveState := by rw [drainGaps_frame s]
@[simp] theorem drainGaps_steppingEn (s : State) : (drainGaps s).steppingEn = s.steppingEn := by rw [drainGaps_frame s]
@[simp] theorem drainGaps_motorEn (s : State) : (drainGaps s).motorEn = s.motorEn := by rw [drainGaps_frame s]
@[simp] theorem drainGaps_runDeadline (s : State) : (drainGaps s).runDeadline = s.runDeadline := by rw [drainGaps_frame s]
@[simp] theorem drainGaps_factor (s : State) : (drainGaps s).factor = s.factor := by rw [drainGaps_frame s]
@[simp] theorem drainGaps_prevBtn (s : State) : (drainGaps s).prevBtn = s.prevBtn := by rw [drainGaps_frame s]
@[simp] theorem drainGaps_disp (s : State) : (drainGaps s).disp = s.disp := by rw [drainGaps_frame s]
@[simp] theorem drainGaps_last (s : State) : (drainGaps s).last = s.last := by rw [drainGaps_frame s]
@[simp] theorem drainGaps_stepIntervalUs (s : State) : (drainGaps s).stepIntervalUs = s.stepIntervalUs := by rw [drainGaps_frame s]
@[simp] theorem drainGaps_dir (s : State) : (drainGaps s).dir = s.dir := by rw [drainGaps_frame s]
@[simp] theorem drainGaps_btnN (s : State) : (drainGaps s).btnN = s.btnN := by rw [drainGaps_frame s]
@[simp] theorem drainGaps_phys (s : State) : (drainGaps s).phys = s.phys := by rw [drainGaps_frame s]
@[simp] theorem drainGaps_writeCount (s : State) : (drainGaps s).writeCount = s.writeCount := by rw [drainGaps_frame s]
@[simp] theorem drainGaps_sig (s : State) : (drainGaps s).sig = s.sig := by rw [drainGaps_frame s]
@[simp] theorem drainGaps_draws (s : State) : (drainGaps s).draws = s.draws := by rw [drainGaps_frame s]
@[simp] theorem drainGaps_queue (s : State) : (drainGaps s).queue = s.queue := by rw [drainGaps_frame s]

@[simp] theorem fireEvent_driveState (s : State) : (fireEvent s).driveState = s.driveState := by rw [fireEvent_frame s]
@[simp] theorem fireEvent_steppingEn (s : State) : (fireEvent s).steppingEn = s.steppingEn := by rw [fireEvent_frame s]
@[simp] theorem fireEvent_motorEn (s : State) : (fireEvent s).motorEn = s.motorEn := by rw [fireEvent_frame s]
@[simp] theorem fireEvent_runDeadline (s : State) : (fireEvent s).runDeadline = s.runDeadline := by rw [fireEvent_frame s]
@[simp] theorem fireEvent_factor (s : State) : (fireEvent s).factor = s.factor := by rw [fireEvent_frame s]
@[simp] theorem fireEvent_prevBtn (s : State) : (fireEvent s).prevBtn = s.prevBtn := by rw [fireEvent_frame s]
@[simp] theorem fireEvent_disp (s : State) : (fireEvent s).disp = s.disp := by rw [fireEvent_frame s]
@[simp] theorem fireEvent_last (s : State) : (fireEvent s).last = s.last := by rw [fireEvent_frame s]
@[simp] theorem fireEvent_stepIntervalUs (s : State) : (fireEvent s).stepIntervalUs = s.stepIntervalUs := by rw [fireEvent_frame s]
@[simp] theorem fireEvent_dir (s : State) : (fireEvent s).dir = s.dir := by rw [fireEvent_frame s]
@[simp] theorem fireEvent_btnN (s : State) : (fireEvent s).btnN = s.btnN := by rw [fireEvent_frame s]
@[simp] theorem fireEvent_phys (s : State) : (fireEvent s).phys = s.phys := by rw [fireEvent_frame s]
@[simp] theorem fireEvent_writeCount (s : State) : (fireEvent s).writeCount = s.writeCount := by rw [fireEvent_frame s]
@[simp] theorem fireEvent_sig (s : State) : (fireEvent s).sig = s.sig := by rw [fireEvent_frame s]
@[simp] theorem fireEvent_draws (s : State) : (fireEvent s).draws = s.draws := by rw [fireEvent_frame s]
@[simp] theorem fireEvent_queue (s : State) : (fireEvent s).queue = s.queue := by rw [fireEvent_frame s]

@[simp] theorem holdPoint_driveState (s : State) : (holdPoint s).driveState = s.driveState := by rw [holdPoint_frame s]
@[simp] theorem holdPoint_steppingEn (s : State) : (holdPoint s).steppingEn = s.steppingEn := by rw [holdPoint_frame s]
@[simp] theorem holdPoint_motorEn (s : State) : (holdPoint s).motorEn = s.motorEn := by rw [holdPoint_frame s]
@[simp] theorem holdPoint_runDeadline (s : State) : (holdPoint s).runDeadline = s.runDeadline := by rw [holdPoint_frame s]
@[simp] theorem holdPoint_factor (s : State) : (holdPoint s).factor = s.factor := by rw [holdPoint_frame s]
@[simp] theorem holdPoint_prevBtn (s : State) : (holdPoint s).prevBtn = s.prevBtn := by rw [holdPoint_frame s]
@[simp] theorem holdPoint_disp (s : State) : (holdPoint s).disp = s.disp := by rw [holdPoint_frame s]
@[simp] theorem holdPoint_last (s : State) : (holdPoint s).last = s.last := by rw [holdPoint_frame s]
@[simp] theorem holdPoint_stepIntervalUs (s : State) : (holdPoint s).stepIntervalUs = s.stepIntervalUs := by rw [holdPoint_frame s]
@[simp] theorem holdPoint_dir (s : State) : (holdPoint s).dir = s.dir := by rw [holdPoint_frame s]
@[simp] theorem holdPoint_btnN (s : State) : (holdPoint s).btnN = s.btnN := by rw [holdPoint_frame s]
@[simp] theorem holdPoint_phys (s : State) : (holdPoint s).phys = s.phys := by rw [holdPoint_frame s]
@[simp] theorem holdPoint_writeCount (s : State) : (holdPoint s).writeCount = s.writeCount := by rw [holdPoint_frame s]
@[simp] theorem holdPoint_sig (s : State) : (holdPoint s).sig = s.sig := by rw [holdPoint_frame s]
@[simp] theorem holdPoint_draws (s : State) : (holdPoint s).draws = s.draws := by rw [holdPoint_frame s]
@[simp] theorem holdPoint_queue (s : State) : (holdPoint s).queue = s.queue := by rw [holdPoint_frame s]

/-! ## What preemption does to the clock and the step output -/

/-- What a stretch of preemption keeps: the horizon mark stays once set, an unmarked clock has only advanced, and no pulse
is left under way. -/
structure ClockAdvances (s t : State) : Prop where
  sticky : t.pastHorizon = false → s.pastHorizon = false
  marked : s.horizonMarked → t.horizonMarked
  forward : s.horizonMarked → t.pastHorizon = false → 1 ≤ s.factor.toNat → s.rawMs.toNat ≤ t.rawMs.toNat
  pulse : s.pulseIdle → t.pulseIdle
  factor : t.factor = s.factor

theorem ClockAdvances.refl (s : State) : ClockAdvances s s :=
  ⟨id, id, fun _ _ _ => le_refl _, id, rfl⟩

theorem ClockAdvances.trans {s t u : State} (h : ClockAdvances s t) (k : ClockAdvances t u) :
    ClockAdvances s u where
  sticky hu := h.sticky (k.sticky hu)
  marked hs := k.marked (h.marked hs)
  forward hs hu hf := by
    have h1 := h.forward hs (k.sticky hu) hf
    have h2 := k.forward (h.marked hs) hu (by rw [h.factor]; exact hf)
    omega
  pulse hs := k.pulse (h.pulse hs)
  factor := k.factor.trans h.factor

theorem tickOnce_advances (s : State) : ClockAdvances s (tickOnce s) where
  sticky h := by
    simp only [tickOnce_pastHorizon, Bool.or_eq_false_iff] at h
    exact h.1
  marked _ h := by
    simp only [tickOnce_pastHorizon, Bool.or_eq_false_iff, Bool.not_eq_false'] at h
    simpa [State.horizon] using h.2
  forward hs h hf := by
    simp only [tickOnce_pastHorizon, Bool.or_eq_false_iff] at h
    have hz : s.rawMs.toNat * s.factor.toNat + 3000000 < 2 ^ 32 := of_decide_eq_true (hs h.1)
    have : s.rawMs.toNat ≤ s.rawMs.toNat * s.factor.toNat := Nat.le_mul_of_pos_right _ (by omega)
    have h1 : (1 : Time).toNat = 1 := rfl
    simp only [tickOnce_rawMs, BitVec.toNat_add, h1]
    omega
  pulse h := h
  factor := rfl

theorem firePulse_advances (s : State) : ClockAdvances s (firePulse s) := by
  unfold firePulse
  split
  · exact ⟨id, id, fun _ _ _ => le_refl _, fun _ => ⟨rfl, rfl⟩, rfl⟩
  · exact ClockAdvances.refl s

theorem foldl_runPreempt_advances (g : List Preempt) (s : State) :
    ClockAdvances s (g.foldl runPreempt s) := by
  induction g generalizing s with
  | nil => exact ClockAdvances.refl s
  | cons e g ih =>
    refine ClockAdvances.trans ?_ (ih _)
    cases e
    · exact tickOnce_advances s
    · exact firePulse_advances s

theorem withGaps_advances (g : List (List Preempt)) (s : State) : ClockAdvances s { s with gaps := g } :=
  ⟨id, id, fun _ _ _ => le_refl _, id, rfl⟩

theorem preemptPoint_advances (s : State) : ClockAdvances s (preemptPoint s) := by
  unfold preemptPoint
  split
  · exact ClockAdvances.refl s
  · exact (withGaps_advances _ s).trans (foldl_runPreempt_advances _ _)

theorem drainGaps_advances (s : State) : ClockAdvances s (drainGaps s) :=
  (withGaps_advances _ s).trans (foldl_runPreempt_advances _ _)

/-! ## The renderer (42_display.md R140) -/

/-- `RENDER` up to preemption: `DISP` and `LAST` take the pattern, and the display is written only where it differs. -/
theorem renderPattern_frame (p : Pattern) (s : State) : (renderPattern p s).sameButPreempted
    { s with
      disp := p
      last := p
      phys := if p = s.last then s.phys else p
      writeCount := if p = s.last then s.writeCount else s.writeCount + 1 } := by
  rw [sameButPreempted_iff]
  unfold renderPattern
  by_cases h : p = s.last <;> simp [h]

@[simp] theorem renderPattern_driveState (p : Pattern) (s : State) : (renderPattern p s).driveState = s.driveState := by rw [renderPattern_frame p s]
@[simp] theorem renderPattern_steppingEn (p : Pattern) (s : State) : (renderPattern p s).steppingEn = s.steppingEn := by rw [renderPattern_frame p s]
@[simp] theorem renderPattern_motorEn (p : Pattern) (s : State) : (renderPattern p s).motorEn = s.motorEn := by rw [renderPattern_frame p s]
@[simp] theorem renderPattern_runDeadline (p : Pattern) (s : State) : (renderPattern p s).runDeadline = s.runDeadline := by rw [renderPattern_frame p s]
@[simp] theorem renderPattern_factor (p : Pattern) (s : State) : (renderPattern p s).factor = s.factor := by rw [renderPattern_frame p s]
@[simp] theorem renderPattern_prevBtn (p : Pattern) (s : State) : (renderPattern p s).prevBtn = s.prevBtn := by rw [renderPattern_frame p s]
@[simp] theorem renderPattern_disp (p : Pattern) (s : State) : (renderPattern p s).disp = p := by rw [renderPattern_frame p s]
@[simp] theorem renderPattern_last (p : Pattern) (s : State) : (renderPattern p s).last = p := by rw [renderPattern_frame p s]
@[simp] theorem renderPattern_stepIntervalUs (p : Pattern) (s : State) : (renderPattern p s).stepIntervalUs = s.stepIntervalUs := by rw [renderPattern_frame p s]
@[simp] theorem renderPattern_dir (p : Pattern) (s : State) : (renderPattern p s).dir = s.dir := by rw [renderPattern_frame p s]
@[simp] theorem renderPattern_btnN (p : Pattern) (s : State) : (renderPattern p s).btnN = s.btnN := by rw [renderPattern_frame p s]
@[simp] theorem renderPattern_phys (p : Pattern) (s : State) :
    (renderPattern p s).phys = if p = s.last then s.phys else p := by rw [renderPattern_frame p s]
@[simp] theorem renderPattern_writeCount (p : Pattern) (s : State) :
    (renderPattern p s).writeCount = if p = s.last then s.writeCount else s.writeCount + 1 := by rw [renderPattern_frame p s]
@[simp] theorem renderPattern_sig (p : Pattern) (s : State) : (renderPattern p s).sig = s.sig := by rw [renderPattern_frame p s]
@[simp] theorem renderPattern_draws (p : Pattern) (s : State) : (renderPattern p s).draws = s.draws := by rw [renderPattern_frame p s]
@[simp] theorem renderPattern_queue (p : Pattern) (s : State) : (renderPattern p s).queue = s.queue := by rw [renderPattern_frame p s]

/-- `RENDER` with nothing in its gaps. -/
theorem renderPattern_noGaps (p : Pattern) {s : State} (h : s.gaps = []) :
    renderPattern p s = if p = s.last then requestPattern p s
      else keepPattern (dispWrite p (requestPattern p s)) := by
  unfold renderPattern
  have h1 : preemptPoint (requestPattern p s) = requestPattern p s := preemptPoint_noGaps (by simpa using h)
  have h2 : preemptPoint (dispWrite p (requestPattern p s)) = dispWrite p (requestPattern p s) :=
    preemptPoint_noGaps (by simpa using h)
  simp only [h1, requestPattern_disp, requestPattern_last, h2]
  by_cases hp : p = s.last <;> simp [hp]

theorem renderPattern_advances (p : Pattern) (s : State) : ClockAdvances s (renderPattern p s) := by
  unfold renderPattern
  have h0 : ClockAdvances s (requestPattern p s) := ⟨id, id, fun _ _ _ => le_refl _, id, rfl⟩
  have h1 := h0.trans (preemptPoint_advances _)
  simp only
  split
  · refine h1.trans ?_
    have h2 : ∀ (q : Pattern) (u : State), ClockAdvances u (dispWrite q u) := fun q u =>
      ⟨id, id, fun _ _ _ => le_refl _, id, rfl⟩
    have h3 : ∀ u : State, ClockAdvances u (keepPattern u) := fun u => ⟨id, id, fun _ _ _ => le_refl _, id, rfl⟩
    exact ((h2 _ _).trans (preemptPoint_advances _)).trans (h3 _)
  · exact h1

theorem fullRun_notInGap : inGap fullRun = false := by decide

/-- The full countdown is not in the gap of R139, so showing it draws no free value. -/
theorem countDraw_fullRun (s : State) : countDraw fullRun s = s := by
  unfold countDraw
  rw [fullRun_notInGap]
  rfl

/-- Outside the gap the free digit does not matter (42_display.md R137, R139). -/
theorem countdownOf_free (f g : Seg8) (d : Time) (h : inGap d = false) : countdownOf f d = countdownOf g d := by
  have h' : ¬(5999000 < d.toNat ∧ d.toNat < 6000000) := of_decide_eq_false h
  unfold countdownOf
  split
  · rfl
  · rename_i hs
    simp only [Config.sentinelMs, not_le] at hs
    have hd : d.toNat ≤ 5999000 := by omega
    have hm : ((d.toNat + 999) / 1000 / 60) / 10 < 10 := by omega
    simp only [mmss, hm, if_true]

/-- The full countdown reads `50:00` (44_state_machine.md R176, R182). -/
theorem countdownAt_fullRun (s : State) :
    countdownAt fullRun s = fullCountdown := by
  unfold countdownAt
  rw [countdownOf_free _ 0 _ fullRun_notInGap]
  decide

theorem renderCountdown_fullRun (s : State) :
    renderCountdown fullRun s = renderPattern fullCountdown s := by
  unfold renderCountdown
  rw [countdownAt_fullRun, countDraw_fullRun]

/-! ## Entry actions (44_state_machine.md R174 to R176) -/

/-- `APPLY_IDLE` up to preemption. -/
theorem enterIdle_frame (s : State) : (enterIdle s).sameButPreempted
    { s with
      disp := glyphIdle
      last := glyphIdle
      phys := if glyphIdle = s.last then s.phys else glyphIdle
      writeCount := if glyphIdle = s.last then s.writeCount else s.writeCount + 1
      motorEn := false
      steppingEn := false } := by
  rw [sameButPreempted_iff]
  simp [enterIdle]

/-- `APPLY_HOLD` up to preemption. -/
theorem enterHold_frame (s : State) : (enterHold s).sameButPreempted
    { s with
      disp := glyphHold
      last := glyphHold
      phys := if glyphHold = s.last then s.phys else glyphHold
      writeCount := if glyphHold = s.last then s.writeCount else s.writeCount + 1
      motorEn := true
      steppingEn := false } := by
  rw [sameButPreempted_iff]
  simp [enterHold]

/-- `APPLY_RUN(t)` shows `50:00` (R176). -/
theorem enterRun_eq (t : Time) (s : State) : enterRun t s =
    armDeadline (deadlineFrom t) (preemptPoint (setSteppingEn true (preemptPoint (setMotorEn true
      (preemptPoint (renderPattern fullCountdown s)))))) := by
  have h : enterRun t s = armDeadline (deadlineFrom t) (preemptPoint (setSteppingEn true (preemptPoint
      (setMotorEn true (preemptPoint (renderCountdown fullRun s)))))) := rfl
  exact h.trans (congrArg (fun x => armDeadline (deadlineFrom t) (preemptPoint (setSteppingEn true (preemptPoint
    (setMotorEn true (preemptPoint x)))))) (renderCountdown_fullRun s))

/-- `APPLY_RUN(t)` up to preemption. -/
theorem enterRun_frame (t : Time) (s : State) : (enterRun t s).sameButPreempted
    { s with
      disp := fullCountdown
      last := fullCountdown
      phys := if fullCountdown = s.last then s.phys else fullCountdown
      writeCount := if fullCountdown = s.last then s.writeCount else s.writeCount + 1
      motorEn := true
      steppingEn := true
      runDeadline := deadlineFrom t } := by
  rw [sameButPreempted_iff, enterRun_eq]
  simp

end Sys2Proof.Machine
end

