-- ==== Sys2Proof/Laws/Cycle.lean ====
section
/-! SUPPORT. What the parts of a control cycle do (44_state_machine.md R186): up to preemption, and exactly where nothing
falls into the gaps. -/

namespace Sys2Proof.Machine

theorem runPreempt_gaps (s : State) (e : Preempt) : (runPreempt s e).gaps = s.gaps := by
  cases e
  · rfl
  · show (firePulse s).gaps = s.gaps
    unfold firePulse
    split <;> rfl

theorem foldl_runPreempt_gaps (g : List Preempt) (s : State) : (g.foldl runPreempt s).gaps = s.gaps := by
  induction g generalizing s with
  | nil => rfl
  | cons e g ih => exact (ih _).trans (runPreempt_gaps s e)

/-- A gap uses up one entry of what the environment placed. -/
theorem preemptPoint_gaps (s : State) : (preemptPoint s).gaps = s.gaps.tail := by
  unfold preemptPoint
  split
  · next h => simp [h]
  · next g rest h => simp [h, foldl_runPreempt_gaps]

theorem firePulse_rawMs (s : State) : (firePulse s).rawMs = s.rawMs := by
  unfold firePulse
  split <;> simp

theorem foldl_runPreempt_rawMs (g : List Preempt) (s : State) :
    (g.foldl runPreempt s).rawMs = s.rawMs + BitVec.ofNat 32 (g.count .tick) := by
  induction g generalizing s with
  | nil => simp
  | cons e g ih =>
    refine (ih _).trans ?_
    cases e
    · show (tickOnce s).rawMs + _ = _
      have h : BitVec.ofNat 32 (g.count .tick + 1) = 1 + BitVec.ofNat 32 (g.count .tick) := by
        rw [Nat.add_comm, BitVec.ofNat_add]
        rfl
      simp only [tickOnce_rawMs, List.count_cons_self, h, BitVec.add_assoc]
    · show (firePulse s).rawMs + _ = _
      rw [firePulse_rawMs, List.count_cons_of_ne (by decide)]

/-- A gap advances `RAW_MS` by the `TICK`s that fall into it. -/
theorem preemptPoint_rawMs (s : State) :
    (preemptPoint s).rawMs = s.rawMs + BitVec.ofNat 32 ((s.gaps.headD []).count .tick) := by
  unfold preemptPoint
  split
  · next h => simp [h]
  · next g rest h => simp [h, foldl_runPreempt_rawMs]

/-- The time sample a cycle latches: the `TICK`s of the two gaps before it have been seen (40_time_source.md R92). -/
def sampleTime (s : State) : Time :=
  (s.rawMs + BitVec.ofNat 32 ((s.gaps.take 2).flatten.count .tick)) * s.factor

/-- The signals a cycle latches in steps 1 to 5 (44_state_machine.md R186). -/
def sensed (b : Bit) (s : State) : Signals :=
  { s.sig with
    cur := b
    edge := pressEdge s.prevBtn b
    t := sampleTime s
    exp := s.driveState == .run && deadlineReached (sampleTime s) s.runDeadline
    next := nextOf s.driveState (pressEdge s.prevBtn b)
      (s.driveState == .run && deadlineReached (sampleTime s) s.runDeadline) }

theorem selector_fields : ∀ (st : DriveState) (edge exp : Bool),
    selState (selector st edge exp) = st ∧ selEdge (selector st edge exp) = edge ∧
      selExp (selector st edge exp) = exp := by
  intro st edge exp
  cases st <;> cases edge <;> cases exp <;> decide

/-- Steps 1 to 5 of a cycle change nothing but the button pin and the signals, up to preemption. -/
theorem senseCycle_frame (b : Bit) (s : State) :
    (senseCycle b s).sameButPreempted { s with btnN := b, sig := sensed b s } := by
  have ht : (preemptPoint (latchEdge b (preemptPoint (samplePin (presentButton b s))))).rawMs =
      s.rawMs + BitVec.ofNat 32 ((s.gaps.take 2).flatten.count .tick) := by
    rw [preemptPoint_rawMs, latchEdge_rawMs, latchEdge_gaps, preemptPoint_rawMs, preemptPoint_gaps]
    simp only [samplePin_rawMs, samplePin_gaps, presentButton_rawMs, presentButton_gaps, BitVec.add_assoc]
    rw [← BitVec.ofNat_add]
    rcases s.gaps with _ | ⟨g0, _ | ⟨g1, r⟩⟩ <;> simp
  rw [sameButPreempted_iff]
  simp only [senseCycle]
  refine ⟨?_, ?_, ?_, ?_, ?_, ?_, ?_, ?_, ?_, ?_, ?_, ?_, ?_, ?_, ?_, ?_⟩
  all_goals try (simp; done)
  simp only [preemptPoint_sig, latchNext_sig, latchExpired_sig, latchTime_sig, latchExpired_driveState, ht, logicalNow,
    preemptPoint_driveState, latchTime_driveState, latchEdge_driveState, samplePin_driveState, presentButton_driveState,
    preemptPoint_factor, latchEdge_factor, samplePin_factor, presentButton_factor, preemptPoint_runDeadline,
    latchTime_runDeadline, latchEdge_runDeadline, samplePin_runDeadline, presentButton_runDeadline, latchEdge_sig,
    samplePin_sig, presentButton_btnN, presentButton_sig, preemptPoint_prevBtn, samplePin_prevBtn, presentButton_prevBtn,
    selectorOf, selector_fields]
  rfl

/-! ## Where nothing preempts -/

theorem senseCycle_noGaps (b : Bit) {s : State} (h : s.gaps = []) : senseCycle b s =
    { s with btnN := b, sig := sensed b s, history := .pinRead b :: s.history } := by
  have hs : (senseCycle b s).sig = sensed b s := by
    have := senseCycle_frame b s
    rw [sameButPreempted_iff] at this
    exact this.2.2.2.2.2.2.2.2.2.2.2.2.2.1
  have hs' := hs
  simp only [senseCycle] at hs' ⊢
  simp (discharger := simp [h]) only [preemptPoint_noGaps] at hs' ⊢
  ext1 <;> simp
  simpa using hs'

theorem enterIdle_noGaps {s : State} (h : s.gaps = []) : enterIdle s =
    { s with
      disp := glyphIdle
      last := glyphIdle
      phys := if glyphIdle = s.last then s.phys else glyphIdle
      writeCount := if glyphIdle = s.last then s.writeCount else s.writeCount + 1
      motorEn := false
      steppingEn := false
      history := .pinWrite .motorEnN 1 ::
        (if glyphIdle = s.last then s.history else .dispWrite glyphIdle :: s.history) } := by
  simp only [enterIdle, renderPattern_noGaps _ h]
  split <;> simp (discharger := simp [h]) only [preemptPoint_noGaps] <;> ext1 <;> simp [*]

theorem enterHold_noGaps {s : State} (h : s.gaps = []) : enterHold s =
    { s with
      disp := glyphHold
      last := glyphHold
      phys := if glyphHold = s.last then s.phys else glyphHold
      writeCount := if glyphHold = s.last then s.writeCount else s.writeCount + 1
      motorEn := true
      steppingEn := false
      history := .pinWrite .motorEnN 0 ::
        (if glyphHold = s.last then s.history else .dispWrite glyphHold :: s.history) } := by
  simp only [enterHold, renderPattern_noGaps _ h]
  split <;> simp (discharger := simp [h]) only [preemptPoint_noGaps] <;> ext1 <;> simp [*]

theorem enterRun_noGaps (t : Time) {s : State} (h : s.gaps = []) : enterRun t s =
    { s with
      disp := fullCountdown
      last := fullCountdown
      phys := if fullCountdown = s.last then s.phys else fullCountdown
      writeCount := if fullCountdown = s.last then s.writeCount else s.writeCount + 1
      motorEn := true
      steppingEn := true
      runDeadline := deadlineFrom t
      history := .pinWrite .motorEnN 0 ::
        (if fullCountdown = s.last then s.history else .dispWrite fullCountdown :: s.history) } := by
  simp only [enterRun_eq, renderPattern_noGaps _ h]
  split <;> simp (discharger := simp [h]) only [preemptPoint_noGaps] <;> ext1 <;> simp [*]

theorem endCycle_noGaps {s : State} (h : s.gaps = []) : endCycle s = { s with prevBtn := s.sig.cur } := by
  simp only [endCycle, preemptPoint_noGaps h]
  rfl

theorem endCycle_frame (s : State) : (endCycle s).sameButPreempted { s with prevBtn := s.sig.cur } := by
  rw [sameButPreempted_iff]
  simp [endCycle]

theorem changeState_noGaps (st : DriveState) (t : Time) {s : State}
    (hg : (applyEntry st t s).gaps = []) : changeState st t s = { applyEntry st t s with driveState := st } := by
  simp only [changeState, preemptPoint_noGaps hg]
  rfl

theorem changeState_frame (st : DriveState) (t : Time) (s : State) :
    (changeState st t s).sameButPreempted { applyEntry st t s with driveState := st } := by
  rw [sameButPreempted_iff]
  simp [changeState]

theorem countdown_free {d : Time} (h : inGap d = false) (s : State) :
    countdownAt d s = countdownOf 0 d ∧ countDraw d s = s :=
  ⟨countdownOf_free _ _ _ h, by simp [countDraw, h]⟩

/-- `RENDER(COUNTDOWN(d))` up to preemption. -/
theorem renderCountdown_frame (d : Time) (s : State) : (renderCountdown d s).sameButPreempted
    { s with
      disp := countdownAt d s
      last := countdownAt d s
      phys := if countdownAt d s = s.last then s.phys else countdownAt d s
      writeCount := if countdownAt d s = s.last then s.writeCount else s.writeCount + 1
      draws := (countDraw d s).draws } := by
  rw [sameButPreempted_iff]
  unfold renderCountdown countDraw
  split <;> simp

theorem renderCountdown_noGaps (d : Time) {s : State} (h : s.gaps = []) : renderCountdown d s =
    { s with
      disp := countdownAt d s
      last := countdownAt d s
      phys := if countdownAt d s = s.last then s.phys else countdownAt d s
      writeCount := if countdownAt d s = s.last then s.writeCount else s.writeCount + 1
      draws := (countDraw d s).draws
      history := if countdownAt d s = s.last then s.history else .dispWrite (countdownAt d s) :: s.history } := by
  unfold renderCountdown
  have hg : (countDraw d s).gaps = [] := by unfold countDraw; split <;> simp [h]
  rw [renderPattern_noGaps _ hg]
  unfold countDraw
  ext1 <;> (split <;> split <;> simp_all)

/-! ## The fields after a countdown is rendered -/

@[simp] theorem renderCountdown_driveState (d : Time) (s : State) : (renderCountdown d s).driveState = (s.driveState) := by rw [renderCountdown_frame d s]
@[simp] theorem renderCountdown_steppingEn (d : Time) (s : State) : (renderCountdown d s).steppingEn = (s.steppingEn) := by rw [renderCountdown_frame d s]
@[simp] theorem renderCountdown_motorEn (d : Time) (s : State) : (renderCountdown d s).motorEn = (s.motorEn) := by rw [renderCountdown_frame d s]
@[simp] theorem renderCountdown_runDeadline (d : Time) (s : State) : (renderCountdown d s).runDeadline = (s.runDeadline) := by rw [renderCountdown_frame d s]
@[simp] theorem renderCountdown_factor (d : Time) (s : State) : (renderCountdown d s).factor = (s.factor) := by rw [renderCountdown_frame d s]
@[simp] theorem renderCountdown_prevBtn (d : Time) (s : State) : (renderCountdown d s).prevBtn = (s.prevBtn) := by rw [renderCountdown_frame d s]
@[simp] theorem renderCountdown_disp (d : Time) (s : State) : (renderCountdown d s).disp = (countdownAt d s) := by rw [renderCountdown_frame d s]
@[simp] theorem renderCountdown_last (d : Time) (s : State) : (renderCountdown d s).last = (countdownAt d s) := by rw [renderCountdown_frame d s]
@[simp] theorem renderCountdown_stepIntervalUs (d : Time) (s : State) : (renderCountdown d s).stepIntervalUs = (s.stepIntervalUs) := by rw [renderCountdown_frame d s]
@[simp] theorem renderCountdown_dir (d : Time) (s : State) : (renderCountdown d s).dir = (s.dir) := by rw [renderCountdown_frame d s]
@[simp] theorem renderCountdown_btnN (d : Time) (s : State) : (renderCountdown d s).btnN = (s.btnN) := by rw [renderCountdown_frame d s]
@[simp] theorem renderCountdown_phys (d : Time) (s : State) : (renderCountdown d s).phys = (if countdownAt d s = s.last then s.phys else countdownAt d s) := by rw [renderCountdown_frame d s]
@[simp] theorem renderCountdown_writeCount (d : Time) (s : State) : (renderCountdown d s).writeCount = (if countdownAt d s = s.last then s.writeCount else s.writeCount + 1) := by rw [renderCountdown_frame d s]
@[simp] theorem renderCountdown_sig (d : Time) (s : State) : (renderCountdown d s).sig = (s.sig) := by rw [renderCountdown_frame d s]
@[simp] theorem renderCountdown_draws (d : Time) (s : State) : (renderCountdown d s).draws = ((countDraw d s).draws) := by rw [renderCountdown_frame d s]
@[simp] theorem renderCountdown_queue (d : Time) (s : State) : (renderCountdown d s).queue = (s.queue) := by rw [renderCountdown_frame d s]

/-! ## A whole cycle, by the branch of R186 it takes -/

theorem senseCycle_sig (b : Bit) (s : State) : (senseCycle b s).sig = sensed b s := by rw [senseCycle_frame]
theorem senseCycle_driveState (b : Bit) (s : State) : (senseCycle b s).driveState = s.driveState := by rw [senseCycle_frame]

theorem runCycle_change (b : Bit) (s : State) (h : (sensed b s).next ≠ s.driveState) :
    runCycle b s = discardSignals (endCycle (changeState (sensed b s).next (sampleTime s) (senseCycle b s))) := by
  have hn : (senseCycle b s).sig.next ≠ (senseCycle b s).driveState := by rw [senseCycle_sig, senseCycle_driveState]; exact h
  simp only [runCycle, actCycle]
  rw [if_pos hn, senseCycle_sig]; rfl

theorem runCycle_stay (b : Bit) (s : State) (h : (sensed b s).next = s.driveState) (hr : s.driveState ≠ .run) :
    runCycle b s = discardSignals (endCycle (senseCycle b s)) := by
  have hn : ¬ (senseCycle b s).sig.next ≠ (senseCycle b s).driveState := by rw [senseCycle_sig, senseCycle_driveState]; simp [h]
  simp only [runCycle, actCycle]
  rw [if_neg hn, if_neg (by rw [senseCycle_driveState]; exact hr)]

theorem runCycle_redraw (b : Bit) (s : State) (h : (sensed b s).next = s.driveState) (hr : s.driveState = .run) :
    runCycle b s = discardSignals (endCycle (redrawRun (sampleTime s) (senseCycle b s))) := by
  have hn : ¬ (senseCycle b s).sig.next ≠ (senseCycle b s).driveState := by rw [senseCycle_sig, senseCycle_driveState]; simp [h]
  simp only [runCycle, actCycle]
  rw [if_neg hn, if_pos (by rw [senseCycle_driveState]; exact hr), senseCycle_sig]; rfl

theorem pressEdge_true {prev b : Bit} (h : prev = 1 ∧ b = 0) : pressEdge prev b = true := by
  obtain ⟨rfl, rfl⟩ := h; rfl
theorem pressEdge_false {prev b : Bit} (h : ¬ (prev = 1 ∧ b = 0)) : pressEdge prev b = false := by
  simpa [pressEdge] using h

/-- A cycle ends in the state it computed in step 5. -/
theorem runCycle_driveState (b : Bit) (s : State) : (runCycle b s).driveState = (sensed b s).next := by
  by_cases h : (sensed b s).next = s.driveState
  · by_cases hr : s.driveState = .run
    · rw [runCycle_redraw b s h hr]; simp only [endCycle, discardSignals_driveState, keepButton_driveState, preemptPoint_driveState, redrawRun]; rw [renderCountdown_frame]; unfold latchRemain; split <;> simp [senseCycle_driveState, h]
    · rw [runCycle_stay b s h hr]; simp [endCycle, senseCycle_driveState, h]
  · rw [runCycle_change b s h]; simp [endCycle, changeState]

end Sys2Proof.Machine
end

