-- ==== Sys2Proof/Laws/Clock.lean ====
section
/-! SUPPORT. The clock and the step output over a whole event: `ClockAdvances` for every operation of a cycle. -/

namespace Sys2Proof.Machine

/-- An operation that keeps the fields of the preempting agents. -/
theorem advances_of_same {s t : State} (h1 : t.rawMs = s.rawMs) (h2 : t.pastHorizon = s.pastHorizon) (h3 : t.stepPin = s.stepPin)
    (h4 : t.pulsing = s.pulsing) (h5 : t.factor = s.factor) : ClockAdvances s t where
  sticky h := by rw [← h2]; exact h
  marked h := by intro k; have := h (h2 ▸ k); simpa [State.horizon, h1, h5] using this
  forward _ _ _ := by rw [h1]
  pulse h := by simpa [State.pulseIdle, h3, h4] using h
  factor := h5

theorem advances_preempt {s t : State} (h : ClockAdvances s t) : ClockAdvances s (preemptPoint t) := h.trans (preemptPoint_advances _)

theorem setMotorEn_advances (v : Bool) (u : State) : ClockAdvances u (setMotorEn v u) := advances_of_same (by simp) (by simp) (by simp) (by simp) (by simp)
theorem setSteppingEn_advances (v : Bool) (u : State) : ClockAdvances u (setSteppingEn v u) := advances_of_same (by simp) (by simp) (by simp) (by simp) (by simp)
theorem armDeadline_advances (v) (u : State) : ClockAdvances u (armDeadline v u) := advances_of_same (by simp) (by simp) (by simp) (by simp) (by simp)
theorem setDriveState_advances (v) (u : State) : ClockAdvances u (setDriveState v u) := advances_of_same (by simp) (by simp) (by simp) (by simp) (by simp)
theorem keepButton_advances (u : State) : ClockAdvances u (keepButton u) := advances_of_same (by simp) (by simp) (by simp) (by simp) (by simp)
theorem discardSignals_advances (u : State) : ClockAdvances u (discardSignals u) := advances_of_same (by simp) (by simp) (by simp) (by simp) (by simp)
theorem samplePin_advances (b) (u : State) : ClockAdvances u (samplePin (presentButton b u)) := advances_of_same (by simp) (by simp) (by simp) (by simp) (by simp)
theorem latchEdge_advances (b) (u : State) : ClockAdvances u (latchEdge b u) := advances_of_same (by simp) (by simp) (by simp) (by simp) (by simp)
theorem latchTime_advances (u : State) : ClockAdvances u (latchTime u) := advances_of_same (by simp) (by simp) (by simp) (by simp) (by simp)
theorem latchExpired_advances (b) (u : State) : ClockAdvances u (latchExpired b u) := advances_of_same (by simp) (by simp) (by simp) (by simp) (by simp)
theorem latchNext_advances (b) (u : State) : ClockAdvances u (latchNext b u) := advances_of_same (by simp) (by simp) (by simp) (by simp) (by simp)
theorem countDraw_advances (b) (u : State) : ClockAdvances u (countDraw b u) := by unfold countDraw; split <;> exact advances_of_same rfl rfl rfl rfl rfl
theorem latchRemain_advances (b) (u : State) : ClockAdvances u (latchRemain b u) := by unfold latchRemain; split <;> exact advances_of_same rfl rfl rfl rfl rfl

/-- The time sample of a cycle is the clock of a state `m` between its start and the end of its sensing. -/
theorem senseCycle_advances (b : Bit) (s : State) : ∃ m, ClockAdvances s m ∧ ClockAdvances m (senseCycle b s) ∧ sampleTime s = m.rawMs * m.factor := by
  refine ⟨preemptPoint (latchEdge b (preemptPoint (samplePin (presentButton b s)))), ?_, ?_, ?_⟩
  · exact advances_preempt ((advances_preempt (samplePin_advances b s)).trans (latchEdge_advances _ _))
  · have : (preemptPoint (samplePin (presentButton b s))).sig.cur = b := by simp
    simp only [senseCycle]
    rw [this]
    exact advances_preempt ((advances_preempt ((advances_preempt (latchTime_advances _)).trans (latchExpired_advances _ _))).trans (latchNext_advances _ _))
  · have := senseCycle_sig b s
    have h2 : (senseCycle b s).sig.t = sampleTime s := by rw [this]; rfl
    rw [← h2]
    simp [senseCycle, logicalNow]

theorem actCycle_advances (s : State) : ClockAdvances s (endCycle (actCycle s)) := by
  have he : ∀ u : State, ClockAdvances u (endCycle u) := fun u => (preemptPoint_advances u).trans (keepButton_advances _)
  refine ClockAdvances.trans ?_ (he _)
  have hr := renderPattern_advances
  have hrc : ∀ d u, ClockAdvances u (renderCountdown d u) := fun d u => (countDraw_advances d u).trans (hr _ _)
  unfold actCycle
  split
  · refine (advances_preempt ?_).trans (setDriveState_advances _ _)
    unfold applyEntry
    split
    · exact ClockAdvances.refl _
    · unfold enterIdle; exact (advances_preempt ((advances_preempt (hr _ _)).trans (setMotorEn_advances _ _))).trans (setSteppingEn_advances _ _)
    · unfold enterHold; exact (advances_preempt ((advances_preempt (hr _ _)).trans (setMotorEn_advances _ _))).trans (setSteppingEn_advances _ _)
    · unfold enterRun; exact (advances_preempt ((advances_preempt ((advances_preempt (hrc _ _)).trans (setMotorEn_advances _ _))).trans (setSteppingEn_advances _ _))).trans (armDeadline_advances _ _)
  · split
    · exact (latchRemain_advances _ _).trans (hrc _ _)
    · exact ClockAdvances.refl _

/-- A cycle advances the clock and leaves no pulse under way, whatever preempts it. -/
theorem runCycle_advances (b : Bit) (s : State) : ClockAdvances s (runCycle b s) := by
  obtain ⟨m, h1, h2, -⟩ := senseCycle_advances b s
  exact (h1.trans (h2.trans (actCycle_advances _))).trans (discardSignals_advances _)

/-- So does a `FIRE`. -/
theorem fireEvent_advances (s : State) : ClockAdvances s (fireEvent s) := by
  unfold fireEvent
  split
  · have h : ClockAdvances { s with stepPin := 1, pulsing := true } (holdPoint (assertStep s)) := by
      refine ClockAdvances.trans (t := assertStep s) (advances_of_same rfl rfl rfl rfl rfl) ?_
      unfold holdPoint
      split
      · exact ClockAdvances.refl _
      · exact (withGaps_advances _ _).trans (foldl_runPreempt_advances _ _)
    exact ⟨h.sticky, h.marked, h.forward, fun _ => ⟨rfl, rfl⟩, h.factor⟩
  · exact ClockAdvances.refl s

end Sys2Proof.Machine
end

