-- ==== Sys2Proof/Laws/PerInstr.lean ====
section
/-! SUPPORT. Per row of spec/opcode_table.json: a row has a code word unless its format is `FUNC`, and it is a stimulus
word exactly for the four events (30_encoding.md R79, R86). -/

namespace Sys2Proof.Laws.FormatFollowsRow

/-- The format of a row follows its kind. -/
def Statement (i : Instr) : Prop :=
  (encode i = none ↔ i.isFunc = true) ∧ ((∃ w, encode i = some (.stim8 w)) ↔ i.isEvent = true)

/-- Both sides can be computed. -/
theorem of_isStim (i : Instr) (h1 : (encode i).isNone = i.isFunc)
    (h2 : (match encode i with | some (.stim8 _) => true | _ => false) = i.isEvent) : Statement i := by
  unfold Statement
  rw [← h1, ← h2]
  rcases encode i with _ | _ | _ | _ | _ | _ <;> simp

theorem reset (b : Bit) : Statement (.reset b) := of_isStim _ rfl rfl
theorem tick : Statement (.tick) := of_isStim _ rfl rfl
theorem cycle (b : Bit) : Statement (.cycle b) := of_isStim _ rfl rfl
theorem fire : Statement (.fire) := of_isStim _ rfl rfl
theorem tInitIdle (sel : BitVec 4) : Statement (.tInitIdle sel) := of_isStim _ rfl rfl
theorem tIdleStay (sel : BitVec 4) : Statement (.tIdleStay sel) := of_isStim _ rfl rfl
theorem tIdleHold (sel : BitVec 4) : Statement (.tIdleHold sel) := of_isStim _ rfl rfl
theorem tHoldStay (sel : BitVec 4) : Statement (.tHoldStay sel) := of_isStim _ rfl rfl
theorem tHoldRun (sel : BitVec 4) : Statement (.tHoldRun sel) := of_isStim _ rfl rfl
theorem tRunStay (sel : BitVec 4) : Statement (.tRunStay sel) := of_isStim _ rfl rfl
theorem tRunIdleExp (sel : BitVec 4) : Statement (.tRunIdleExp sel) := of_isStim _ rfl rfl
theorem tRunIdleBtn (sel : BitVec 4) : Statement (.tRunIdleBtn sel) := of_isStim _ rfl rfl
theorem enc7_0 : Statement (.enc7_0) := of_isStim _ rfl rfl
theorem enc7_1 : Statement (.enc7_1) := of_isStim _ rfl rfl
theorem enc7_2 : Statement (.enc7_2) := of_isStim _ rfl rfl
theorem enc7_3 : Statement (.enc7_3) := of_isStim _ rfl rfl
theorem enc7_4 : Statement (.enc7_4) := of_isStim _ rfl rfl
theorem enc7_5 : Statement (.enc7_5) := of_isStim _ rfl rfl
theorem enc7_6 : Statement (.enc7_6) := of_isStim _ rfl rfl
theorem enc7_7 : Statement (.enc7_7) := of_isStim _ rfl rfl
theorem enc7_8 : Statement (.enc7_8) := of_isStim _ rfl rfl
theorem enc7_9 : Statement (.enc7_9) := of_isStim _ rfl rfl
theorem applyIdle : Statement (.applyIdle) := of_isStim _ rfl rfl
theorem applyHold : Statement (.applyHold) := of_isStim _ rfl rfl
theorem applyRun : Statement (.applyRun) := of_isStim _ rfl rfl
theorem glyphIdle : Statement (.glyphIdle) := of_isStim _ rfl rfl
theorem glyphHold : Statement (.glyphHold) := of_isStim _ rfl rfl
theorem now : Statement (.now) := of_isStim _ rfl rfl
theorem expired (t : Time) : Statement (.expired t) := of_isStim _ rfl rfl
theorem remain (t : Time) : Statement (.remain t) := of_isStim _ rfl rfl
theorem stepInterval : Statement (.stepInterval) := of_isStim _ rfl rfl
theorem countdown (d : Time) : Statement (.countdown d) := of_isStim _ rfl rfl
theorem render (p : Pattern) : Statement (.render p) := of_isStim _ rfl rfl
theorem sample : Statement (.sample) := of_isStim _ rfl rfl
theorem edge (cur : Bit) : Statement (.edge cur) := of_isStim _ rfl rfl
theorem bootMode (b : Bit) : Statement (.bootMode b) := of_isStim _ rfl rfl
theorem nextState (sel : BitVec 4) : Statement (.nextState sel) := of_isStim _ rfl rfl
theorem runRedraw (t : Time) : Statement (.runRedraw t) := of_isStim _ rfl rfl

end Sys2Proof.Laws.FormatFollowsRow
end

