-- ==== Sys2Proof/Laws/Run.lean ====
section
/-! SUPPORT. What the lemmas about runs rest on: no event loses a `TICK` or touches the queue, the horizon mark follows the
`TICK`s, what the environment presents next is a legal stimulus word, and steps chain. -/

namespace Sys2Proof.Machine

/-! ## No `TICK` is lost -/

/-- The raw time once every `TICK` still placed in the gaps has happened. -/
def clockSum (s : State) : Time := s.rawMs + BitVec.ofNat 32 (s.gaps.flatten.count .tick)

theorem clockSum_of_same {s t : State} (h1 : t.rawMs = s.rawMs) (h2 : t.gaps = s.gaps) : clockSum t = clockSum s := by
  unfold clockSum
  rw [h1, h2]

theorem clockSum_preemptPoint (s : State) : clockSum (preemptPoint s) = clockSum s := by
  unfold clockSum
  rw [preemptPoint_rawMs, preemptPoint_gaps]
  rcases s.gaps with _ | ⟨g, rest⟩
  · simp
  · simp [BitVec.add_assoc, ← BitVec.ofNat_add]

theorem drainGaps_rawMs (s : State) : (drainGaps s).rawMs = clockSum s := by
  unfold drainGaps clockSum
  rw [foldl_runPreempt_rawMs]

theorem clockSum_holdPoint (s : State) : clockSum (holdPoint s) = clockSum s := by
  unfold holdPoint
  split
  · rfl
  · next g rest h =>
    unfold clockSum
    rw [foldl_runPreempt_rawMs, foldl_runPreempt_gaps, h]
    have hc : (g.filter (· == .tick)).count .tick = g.count .tick := by
      rw [List.count_filter]
      rfl
    simp [hc, BitVec.add_assoc, ← BitVec.ofNat_add]

theorem clockSum_fireEvent (s : State) : clockSum (fireEvent s) = clockSum s := by
  unfold fireEvent
  split
  · have h : clockSum (deassertStep (holdPoint (assertStep s))) = clockSum (holdPoint (assertStep s)) :=
      clockSum_of_same rfl rfl
    rw [h, clockSum_holdPoint]
    exact clockSum_of_same rfl rfl
  · rfl

theorem clockSum_renderPattern (p : Pattern) (s : State) : clockSum (renderPattern p s) = clockSum s := by
  have h1 : clockSum (preemptPoint (requestPattern p s)) = clockSum s :=
    (clockSum_preemptPoint _).trans (clockSum_of_same rfl rfl)
  unfold renderPattern
  simp only
  split
  · have hk (u : State) : clockSum (keepPattern u) = clockSum u := clockSum_of_same rfl rfl
    have hd (q : Pattern) (u : State) : clockSum (dispWrite q u) = clockSum u := clockSum_of_same rfl rfl
    rw [hk, clockSum_preemptPoint, hd, h1]
  · exact h1

theorem clockSum_renderCountdown (d : Time) (s : State) : clockSum (renderCountdown d s) = clockSum s := by
  refine (clockSum_renderPattern _ _).trans ?_
  unfold countDraw
  split <;> exact clockSum_of_same rfl rfl

theorem clockSum_applyEntry (st : DriveState) (t : Time) (s : State) : clockSum (applyEntry st t s) = clockSum s := by
  have hm (v : Bool) (u : State) : clockSum (setMotorEn v u) = clockSum u := clockSum_of_same (by simp) (by simp)
  have he (v : Bool) (u : State) : clockSum (setSteppingEn v u) = clockSum u := clockSum_of_same (by simp) (by simp)
  have ha (d : Time) (u : State) : clockSum (armDeadline d u) = clockSum u := clockSum_of_same (by simp) (by simp)
  unfold applyEntry
  split
  · rfl
  · simp only [enterIdle, he, hm, clockSum_preemptPoint, clockSum_renderPattern]
  · simp only [enterHold, he, hm, clockSum_preemptPoint, clockSum_renderPattern]
  · simp only [enterRun, ha, he, hm, clockSum_preemptPoint, clockSum_renderCountdown]

theorem clockSum_senseCycle (b : Bit) (s : State) : clockSum (senseCycle b s) = clockSum s := by
  have h1 (v : Bit) (u : State) : clockSum (presentButton v u) = clockSum u := clockSum_of_same (by simp) (by simp)
  have h2 (u : State) : clockSum (samplePin u) = clockSum u := clockSum_of_same (by simp) (by simp)
  have h3 (c : Bit) (u : State) : clockSum (latchEdge c u) = clockSum u := clockSum_of_same (by simp) (by simp)
  have h4 (u : State) : clockSum (latchTime u) = clockSum u := clockSum_of_same (by simp) (by simp)
  have h5 (t : Time) (u : State) : clockSum (latchExpired t u) = clockSum u := clockSum_of_same (by simp) (by simp)
  have h6 (n : BitVec 4) (u : State) : clockSum (latchNext n u) = clockSum u := clockSum_of_same (by simp) (by simp)
  simp only [senseCycle, clockSum_preemptPoint, h1, h2, h3, h4, h5, h6]

/-- A cycle neither loses nor makes a `TICK`. -/
theorem clockSum_runCycle (b : Bit) (s : State) : clockSum (runCycle b s) = clockSum s := by
  have hd (u : State) : clockSum (discardSignals u) = clockSum u := clockSum_of_same (by simp) (by simp)
  have hk (u : State) : clockSum (keepButton u) = clockSum u := clockSum_of_same (by simp) (by simp)
  have hs (st : DriveState) (u : State) : clockSum (setDriveState st u) = clockSum u := clockSum_of_same (by simp) (by simp)
  have hr (t : Time) (u : State) : clockSum (latchRemain t u) = clockSum u := by
    unfold latchRemain
    split <;> exact clockSum_of_same rfl rfl
  have ha : clockSum (actCycle (senseCycle b s)) = clockSum (senseCycle b s) := by
    unfold actCycle
    split
    · simp only [changeState, hs, clockSum_preemptPoint, clockSum_applyEntry]
    · split
      · simp only [redrawRun, clockSum_renderCountdown, hr]
      · rfl
  simp only [runCycle, endCycle, hd, hk, clockSum_preemptPoint, ha, clockSum_senseCycle]

/-! ## The horizon mark -/

/-- The mark after what fell into a gap: set where it was, or where one of its `TICK`s left the horizon. -/
theorem foldl_runPreempt_pastHorizon (g : List Preempt) (s : State) :
    (g.foldl runPreempt s).pastHorizon = true ↔ (s.pastHorizon = true ∨
      ∃ k, 1 ≤ k ∧ k ≤ g.count .tick ∧ inHorizon (s.rawMs + BitVec.ofNat 32 k) s.factor = false) := by
  induction g generalizing s with
  | nil => simp
  | cons e g ih =>
    rw [List.foldl_cons, ih]
    cases e with
    | tick =>
      have hk (k : Nat) : s.rawMs + BitVec.ofNat 32 (k + 1) = s.rawMs + 1 + BitVec.ofNat 32 k := by
        rw [Nat.add_comm, BitVec.ofNat_add, ← BitVec.add_assoc]
        rfl
      simp only [runPreempt, tickOnce_pastHorizon, tickOnce_rawMs, tickOnce_factor, Bool.or_eq_true, Bool.not_eq_true',
        List.count_cons_self, or_assoc]
      refine or_congr_right ⟨?_, ?_⟩
      · rintro (h | ⟨k, h1, h2, h3⟩)
        · exact ⟨1, le_refl _, by omega, h⟩
        · exact ⟨k + 1, by omega, by omega, by rw [hk]; exact h3⟩
      · rintro ⟨k, h1, h2, h3⟩
        obtain ⟨k, rfl⟩ : ∃ m, k = m + 1 := ⟨k - 1, by omega⟩
        rw [hk] at h3
        rcases k.eq_zero_or_pos with rfl | hp
        · exact .inl (by simpa using h3)
        · exact .inr ⟨k, hp, by omega, h3⟩
    | fire =>
      rw [List.count_cons_of_ne (by decide)]
      have hp : (firePulse s).pastHorizon = s.pastHorizon ∧ (firePulse s).rawMs = s.rawMs ∧
          (firePulse s).factor = s.factor := by
        unfold firePulse
        split <;> exact ⟨rfl, rfl, rfl⟩
      show (firePulse s).pastHorizon = true ∨ _ ↔ _
      simp only [runPreempt, hp]

/-- The same for the hold of a pulse, which only `TICK`s change. -/
theorem holdPoint_pastHorizon (s : State) :
    (holdPoint s).pastHorizon = true ↔ (s.pastHorizon = true ∨ ∃ k, 1 ≤ k ∧ k ≤ (s.gaps.headD []).count .tick ∧
      inHorizon (s.rawMs + BitVec.ofNat 32 k) s.factor = false) := by
  unfold holdPoint
  split
  · next h => simp [h]
  · next g rest h =>
    have hc : (g.filter (· == .tick)).count .tick = g.count .tick := by
      rw [List.count_filter]
      rfl
    rw [foldl_runPreempt_pastHorizon, h, hc]
    rfl

/-! ## The queue -/

theorem runCycle_queue (b : Bit) (s : State) : (runCycle b s).queue = s.queue := by
  by_cases h : (sensed b s).next = s.driveState
  · by_cases hr : s.driveState = .run
    · rw [runCycle_redraw b s h hr]
      simp only [endCycle, discardSignals_queue, keepButton_queue, preemptPoint_queue, redrawRun, renderCountdown_queue]
      unfold latchRemain
      rw [senseCycle_frame]
      split <;> simp
    · rw [runCycle_stay b s h hr, senseCycle_frame]
      simp [endCycle]
  · rw [runCycle_change b s h, senseCycle_frame]
    simp only [endCycle, changeState, discardSignals_queue, keepButton_queue, preemptPoint_queue, setDriveState_queue]
    unfold applyEntry
    split
    · rfl
    · rw [enterIdle_frame]
    · rw [enterHold_frame]
    · rw [enterRun_frame]

/-- An event leaves the queue alone. -/
theorem exec_event_queue {i : Instr} (hi : i.isEvent = true) (s : State) :
    ∃ t, exec i s = .next t ∧ t.queue = s.queue := by
  cases i <;> try cases hi
  · exact ⟨_, rfl, rfl⟩
  · exact ⟨_, rfl, rfl⟩
  · exact ⟨_, rfl, runCycle_queue _ _⟩
  · exact ⟨_, rfl, by rw [fireEvent_frame]⟩

/-- A stimulus word decodes to the event it encodes. -/
theorem decode_event {i : Instr} {c : Code} (hi : i.isEvent = true) (h : encode i = some c) : decode c = .ok i := by
  cases i <;> (try cases hi) <;> simp only [encode, Option.some.injEq] at h <;> subst h
  · next b => revert b; decide
  · rfl
  · next b => revert b; decide
  · rfl

/-- A drawn event is one of the three that may follow `RESET`. -/
theorem envKind_event (k : EnvKind) : ∃ i, i.isEvent = true ∧ encode i = some k.code := by
  cases k with
  | tick => exact ⟨.tick, rfl, rfl⟩
  | cycle b => exact ⟨.cycle b, rfl, rfl⟩
  | fire => exact ⟨.fire, rfl, rfl⟩

/-- From a legal queue the word presented next is legal, and so is what is left. -/
theorem fetch_legal {s : State} (h : s.legalQueue) :
    (∃ i, i.isEvent = true ∧ encode i = some (fetch s).1) ∧ (fetch s).2.legalQueue := by
  unfold fetch
  split
  · refine ⟨envKind_event _, ?_⟩
    intro it hit
    obtain ⟨e, -, rfl⟩ := List.mem_map.1 hit
    exact envKind_event _
  · next it rest hq =>
    refine ⟨h it (by rw [hq]; simp), ?_⟩
    intro x hx
    exact h x (by rw [hq]; exact List.mem_cons_of_mem _ hx)

/-! ## Steps in a row -/

theorem after_succ {s t : State} (h : step s = .next t) (n : Nat) : State.after (n + 1) s = State.after n t := by
  show (match step s with
    | .next t => State.after n t
    | .fault f => .fault f
    | .refused r => .refused r) = _
  rw [h]

theorem after_add {m : Nat} {s t : State} (h : State.after m s = .next t) (n : Nat) :
    State.after (m + n) s = State.after n t := by
  induction m generalizing s with
  | zero => cases h; rw [Nat.zero_add]
  | succ m ih =>
    rw [Nat.add_right_comm]
    cases hs : step s with
    | next u =>
      rw [after_succ hs] at h ⊢
      exact ih h
    | fault f => cases f
    | refused r => simp [State.after, hs] at h

end Sys2Proof.Machine
end

