-- ==== Sys2Proof/Tests/Slice0.lean ====
section
/-! SUPPORT. Small tests, their expected values from the tables of spec/ (V<n>: the vector of 95_test_vectors.md), and a
witness for the hypotheses of every statement that has some. -/

namespace Sys2Proof.Tests

open Sys2Proof.Machine

/-- One field of what a meaning answers. -/
def fieldOf {α : Type} (f : State → α) : Result → Option α
  | .next s => some (f s)
  | .fault _ => none
  | .refused _ => none

/-- A machine in Idle. -/
def inIdle : State :=
  { State.reset with driveState := .idle, disp := glyphIdle, last := glyphIdle, phys := glyphIdle }

/-- A machine in Hold, 40 raw milliseconds after power-on. -/
def inHold : State :=
  { State.reset with
    driveState := .hold, motorEn := true, rawMs := 40, disp := glyphHold, last := glyphHold, phys := glyphHold }

/-- A machine in Run, just entered at logical time 40 (V11). -/
def inRun : State :=
  { State.reset with
    driveState := .run, motorEn := true, steppingEn := true, rawMs := 40, runDeadline := 3000040
    disp := fullCountdown, last := fullCountdown, phys := fullCountdown }

/-- The machine after power-on with `w` presented next. -/
def presented (c : Code) : State := presentFirst c State.reset

/-! ## Well-formedness: each check refuses a selector of another row -/

theorem test_wf_refuses_tInitIdle : Instr.wf (.tInitIdle 0x4) = false := by decide
theorem test_wf_refuses_tIdleStay : Instr.wf (.tIdleStay 0x6) = false := by decide
theorem test_wf_refuses_tIdleHold : Instr.wf (.tIdleHold 0x5) = false := by decide
theorem test_wf_refuses_tHoldStay : Instr.wf (.tHoldStay 0x0) = false := by decide
theorem test_wf_refuses_tHoldRun : Instr.wf (.tHoldRun 0x9) = false := by decide
theorem test_wf_refuses_tRunStay : Instr.wf (.tRunStay 0xD) = false := by decide
theorem test_wf_refuses_tRunIdleExp : Instr.wf (.tRunIdleExp 0xC) = false := by decide
theorem test_wf_refuses_tRunIdleBtn : Instr.wf (.tRunIdleBtn 0xD) = false := by decide
theorem test_wf_accepts_rows : Instr.wf (.tInitIdle 0x3) = true ∧ Instr.wf (.tRunIdleBtn 0xF) = true := by decide

/-! ## Decoding: words written out from 30_encoding.md -/

/-- R79: the six words the rule lists. -/
theorem test_decode_events :
    decode (.stim8 0b00000000) = .ok (.reset 0) ∧ decode (.stim8 0b00000001) = .ok (.reset 1) ∧
    decode (.stim8 0b01000000) = .ok .tick ∧ decode (.stim8 0b10000000) = .ok (.cycle 0) ∧
    decode (.stim8 0b10000001) = .ok (.cycle 1) ∧ decode (.stim8 0b11000000) = .ok .fire := by decide

/-- R73 and V10. -/
theorem test_decode_rows :
    decodeSel4 0b0011 = .tInitIdle 0b0011 ∧ decodeSel4 0b0101 = .tIdleStay 0b0101 ∧
    decodeSel4 0b0110 = .tIdleHold 0b0110 ∧ decodeSel4 0b1001 = .tHoldStay 0b1001 ∧
    decodeSel4 0b1010 = .tHoldRun 0b1010 ∧ decodeSel4 0b1100 = .tRunStay 0b1100 ∧
    decodeSel4 0b1101 = .tRunIdleExp 0b1101 ∧ decodeSel4 0b1111 = .tRunIdleBtn 0b1111 := by decide

/-- R75. -/
theorem test_decode_digits :
    decode (.dig4 0b0000) = .ok .enc7_0 ∧ decode (.dig4 0b0001) = .ok .enc7_1 ∧ decode (.dig4 0b0010) = .ok .enc7_2 ∧
    decode (.dig4 0b0011) = .ok .enc7_3 ∧ decode (.dig4 0b0100) = .ok .enc7_4 ∧ decode (.dig4 0b0101) = .ok .enc7_5 ∧
    decode (.dig4 0b0110) = .ok .enc7_6 ∧ decode (.dig4 0b0111) = .ok .enc7_7 ∧ decode (.dig4 0b1000) = .ok .enc7_8 ∧
    decode (.dig4 0b1001) = .ok .enc7_9 := by decide

/-- R71 and R86. -/
theorem test_decode_targets :
    decode (.apply 0b01) = .ok .applyIdle ∧ decode (.apply 0b10) = .ok .applyHold ∧
    decode (.apply 0b11) = .ok .applyRun ∧ decode (.glyph 0b01) = .ok .glyphIdle ∧
    decode (.glyph 0b10) = .ok .glyphHold := by decide

/-- R83, R84, R86: what a reader refuses. -/
theorem test_decode_refuses :
    decode (.stim8 0x02) = .error (.reservedStimulus 0x02) ∧ decode (.stim8 0x41) = .error (.reservedStimulus 0x41) ∧
    decode (.stim8 0xC1) = .error (.reservedStimulus 0xC1) ∧ decode (.dig4 10) = .error (.noDigit 10) ∧
    decode (.apply 0) = .error .noApplyRow ∧ decode (.glyph 3) = .error (.noGlyphRow 3) := by decide

/-- R86: a `FUNC` row has no code word. -/
theorem test_func_has_no_word :
    encode .now = none ∧ encode (.expired 0) = none ∧ encode (.remain 0) = none ∧ encode .stepInterval = none ∧
    encode (.countdown 0) = none ∧ encode (.render Config.blank) = none ∧ encode .sample = none ∧
    encode (.edge 0) = none ∧ encode (.bootMode 0) = none ∧ encode (.nextState 0) = none ∧
    encode (.runRedraw 0) = none := by decide

/-- The probe on bare words. -/
theorem test_table_words :
    decodeTableWord 8 0x40 = some .tick ∧ decodeTableWord 8 0xC0 = some .fire ∧
    decodeTableWord 8 0x0D = some (.tRunIdleExp 0xD) ∧ decodeTableWord 8 0x07 = some .enc7_7 ∧
    decodeTableWord 8 0x03 = some .applyRun ∧ decodeTableWord 8 0x42 = none := by decide

/-! ## The step -/

theorem test_step_runs_the_presented_event :
    fieldOf State.rawMs (step (State.reset.withFetchWord 8 0x40)) = some 1 := by decide

theorem test_step_refuses_a_reserved_word :
    step (presented (.stim8 0x42)) = .refused (.undecodable (.reservedStimulus 0x42)) := rfl

/-- R62: a `FIRE` placed in the gap after `MOTOR_EN <- 1` of the cycle that enters Run does not pulse; placed behind the
cycle it does. -/
theorem test_gap_placement :
    fieldOf State.stepCount (step { inHold with
      last := Config.blank
      queue := [⟨.stim8 0x80, [[], [], [], [], [], [], [], [], [.fire]]⟩] }) = some 0 ∧
    fieldOf State.stepCount (step { inHold with
      last := Config.blank
      queue := [⟨.stim8 0x80, [[], [], [], [], [], [], [], [], [], [.fire]]⟩] }) = some 1 := by decide

/-- 70_reset_and_hazards.md R247: a stretch without a `TICK` or a `CYCLE` is given one, a stretch with both is as drawn. -/
theorem test_fair_rest :
    fairRest ⟨⟨.fire, []⟩, [], 1⟩ = [⟨.tick, []⟩, ⟨.cycle 1, []⟩] ∧
    fairRest ⟨⟨.cycle 0, [[.tick]]⟩, [⟨.fire, []⟩], 1⟩ = [⟨.fire, []⟩] := by decide

/-- Each power-on counts its own draw of what the spec leaves unspecified (log entry 24). -/
theorem test_power_on_draws_afresh :
    State.reset.draws = 1 ∧ fieldOf State.draws (exec (.reset 1) State.reset) = some 2 := by decide

/-! ## Time (V4) -/

theorem test_tick : fieldOf State.rawMs (exec .tick { State.reset with rawMs := 41 }) = some 42 := by decide
theorem test_tick_wraps :
    fieldOf (fun s => (s.rawMs, s.pastHorizon)) (exec .tick { State.reset with rawMs := 4291967295 }) =
      some (4291967296, true) ∧
    fieldOf State.rawMs (exec .tick { State.reset with rawMs := 4294967295 }) = some 0 := by decide
theorem test_now :
    fieldOf (fun s => s.sig.t) (exec .now { State.reset with rawMs := 12345, factor := 60 }) = some 740700 := by decide
theorem test_now_wraps :
    fieldOf (fun s => s.sig.t) (exec .now { State.reset with rawMs := 71582789, factor := 60 }) = some 44 := by decide
theorem test_expired :
    fieldOf (fun s => s.sig.exp) (exec (.expired 3000039) inRun) = some false ∧
    fieldOf (fun s => s.sig.exp) (exec (.expired 3000040) inRun) = some true := by decide
theorem test_remain : fieldOf (fun s => s.sig.rem) (exec (.remain 1050) inRun) = some 2998990 := by decide
theorem test_remain_wraps : fieldOf (fun s => s.sig.rem) (exec (.remain 3005040) inRun) = some 4294962296 := by decide
theorem test_horizon :
    inHorizon 4291967295 1 = true ∧ inHorizon 4291967296 1 = false ∧ inHorizon 71532788 60 = true ∧
    inHorizon 71532789 60 = false := by decide

/-! ## Step pulses (V5) -/

theorem test_step_interval :
    fieldOf State.stepIntervalUs (exec .stepInterval { State.reset with factor := 60 }) = some 1668 ∧
    fieldOf State.stepIntervalUs (exec .stepInterval { State.reset with factor := 991 }) = some 101 := by decide
theorem test_fire : fieldOf (fun s => (s.stepCount, s.stepPin)) (exec .fire { inRun with stepCount := 7 }) =
    some (8, 0) := by decide
theorem test_fire_disabled :
    fieldOf State.stepCount (exec .fire { inHold with stepCount := 7 }) = some 7 := by decide

/-! ## Display (V6, V7, V8) -/

theorem test_digits :
    (List.range 10).map (fun n => enc7 (digit n)) = [0x3F, 0x06, 0x5B, 0x4F, 0x66, 0x6D, 0x7D, 0x07, 0x7F, 0x6F] := by
  decide
theorem test_digit_rows :
    [Instr.enc7_0, .enc7_1, .enc7_2, .enc7_3, .enc7_4, .enc7_5, .enc7_6, .enc7_7, .enc7_8, .enc7_9].map
      (fun i => fieldOf (fun s => s.sig.seg) (exec i State.reset)) =
    [some 0x3F, some 0x06, some 0x5B, some 0x4F, some 0x66, some 0x6D, some 0x7D, some 0x07, some 0x7F, some 0x6F] := by
  decide
theorem test_default_glyphs_are_legal : glyphsLegal ⟨0x30, 0x5E, 0x38, 0x79⟩ ⟨0x76, 0x5C, 0x38, 0x5E⟩ = true := by decide
theorem test_countdown :
    [0, 1, 1000, 1001, 59001, 599000, 599001, 2998990].map
      (fun d => fieldOf (fun s => s.sig.pat) (exec (.countdown d) State.reset)) =
    [some ⟨0x3F, 0xBF, 0x3F, 0x3F⟩, some ⟨0x3F, 0xBF, 0x3F, 0x06⟩, some ⟨0x3F, 0xBF, 0x3F, 0x06⟩,
     some ⟨0x3F, 0xBF, 0x3F, 0x5B⟩, some ⟨0x3F, 0x86, 0x3F, 0x3F⟩, some ⟨0x3F, 0xEF, 0x6D, 0x6F⟩,
     some ⟨0x06, 0xBF, 0x3F, 0x3F⟩, some ⟨0x66, 0xEF, 0x6D, 0x6F⟩] := by decide
theorem test_countdown_edges :
    [5999000, 6000000, 2147483648, 4294967295].map
      (fun d => fieldOf (fun s => s.sig.pat) (exec (.countdown d) State.reset)) =
    [some ⟨0x6F, 0xEF, 0x6D, 0x6F⟩, some ⟨0x3F, 0xBF, 0x3F, 0x3F⟩, some ⟨0x3F, 0xBF, 0x3F, 0x3F⟩,
     some ⟨0x3F, 0xBF, 0x3F, 0x3F⟩] ∧
    fieldOf (fun s => s.sig.pat.d1) (exec (.countdown 5999001) State.reset) = some 0xBF := by decide
theorem test_render_writes :
    fieldOf (fun s => (s.last, s.phys.d0, s.writeCount)) (exec (.render ⟨0x6D, 0xBF, 0x3F, 0x3F⟩) State.reset) =
      some (⟨0x6D, 0xBF, 0x3F, 0x3F⟩, 0x6D, 1) := by decide
theorem test_render_suppresses :
    fieldOf State.writeCount (exec (.render ⟨0x00, 0x00, 0x00, 0x00⟩) State.reset) = some 0 := by decide
theorem test_pack : packPattern ⟨0x30, 0x5E, 0x38, 0x79⟩ = 0x305E3879 ∧
    unpackPattern 0x305E3879 = ⟨0x30, 0x5E, 0x38, 0x79⟩ := by decide

/-! ## Button and boot (V3, V9) -/

theorem test_edge :
    pressEdge 1 1 = false ∧ pressEdge 1 0 = true ∧ pressEdge 0 0 = false ∧ pressEdge 0 1 = false := by decide
theorem test_edge_row : fieldOf (fun s => s.sig.edge) (exec (.edge 0) State.reset) = some true := by decide
theorem test_sample : fieldOf (fun s => s.sig.cur) (exec .sample { State.reset with btnN := 0 }) = some 0 := by decide
theorem test_boot_mode :
    fieldOf State.factor (exec (.bootMode 1) { State.reset with factor := 60 }) = some 1 ∧
    fieldOf State.factor (exec (.bootMode 0) State.reset) = some Config.accelFactor := ⟨by decide, rfl⟩
theorem test_reset_released :
    fieldOf (fun s => (s.driveState, s.factor, s.stepIntervalUs, s.prevBtn)) (exec (.reset 1) inRun) =
      some (.init, 1, 100093, 1) := by decide
theorem test_reset_pressed :
    fieldOf (fun s => (s.factor, s.prevBtn, s.rawMs)) (exec (.reset 0) inRun) = some (Config.accelFactor, 1, 0) := rfl

/-! ## Transitions (V10, V11) -/

theorem test_next :
    (List.range 16).map (fun n => fieldOf (fun s => s.sig.next) (exec (.nextState (BitVec.ofNat 4 n)) State.reset)) =
    [some .idle, some .idle, some .idle, some .idle, some .idle, some .idle, some .hold, some .hold, some .hold, some .hold,
     some .run, some .run, some .run, some .idle, some .idle, some .idle] := by decide
theorem test_cycle_enters_run :
    fieldOf (fun s => (s.driveState, s.runDeadline, s.last, s.steppingEn)) (exec (.cycle 0)
      { inHold with last := ⟨0x76, 0x5C, 0x38, 0x5E⟩ }) = some (.run, 3000040, ⟨0x6D, 0xBF, 0x3F, 0x3F⟩, true) := by decide
theorem test_cycle_redraws :
    fieldOf (fun s => (s.driveState, s.runDeadline, s.last, s.prevBtn)) (exec (.cycle 1)
      { inRun with rawMs := 1050, prevBtn := 0 }) = some (.run, 3000040, ⟨0x66, 0xEF, 0x6D, 0x6F⟩, 1) := by decide
theorem test_cycle_expires : (runCycle 1 { inRun with rawMs := 3000040 }).driveState = .idle := by
  rw [runCycle_driveState]
  decide
theorem test_tInitIdle : (endCycle (changeState .idle 0 State.reset)).driveState = .idle := by simp [endCycle, changeState]
theorem test_tIdleStay : fieldOf (fun s => (s.driveState, s.prevBtn)) (exec (.tIdleStay 0x4) inIdle) =
    some (.idle, 0) := by decide
theorem test_tIdleHold : (enterHold inIdle).motorEn = true ∧ (enterHold inIdle).steppingEn = false := by
  rw [enterHold_frame]
  exact ⟨rfl, rfl⟩
theorem test_tHoldStay : fieldOf (fun s => (s.driveState, s.motorEn)) (exec (.tHoldStay 0x9) inHold) =
    some (.hold, true) := by decide
theorem test_tHoldRun : fieldOf (fun s => (s.driveState, s.runDeadline)) (exec (.tHoldRun 0xA)
    { inHold with last := Config.blank, sig := { Signals.none with t := 2400 } }) = some (.run, 3002400) := by decide
theorem test_tRunStay : fieldOf (fun s => (s.driveState, s.disp)) (exec (.tRunStay 0xC)
    { inRun with sig := { Signals.none with t := 3000039 } }) = some (.run, ⟨0x3F, 0xBF, 0x3F, 0x06⟩) := by decide
theorem test_tRunIdle : (enterIdle inRun).motorEn = false ∧ (enterIdle inRun).steppingEn = false ∧
    (enterIdle inRun).runDeadline = 3000040 := by
  rw [enterIdle_frame]
  exact ⟨rfl, rfl, rfl⟩
theorem test_applyRun : fieldOf (fun s => (s.last, s.runDeadline, s.steppingEn)) (exec .applyRun
    { inHold with last := Config.blank, sig := { Signals.none with t := 4294967295 } }) =
      some (⟨0x6D, 0xBF, 0x3F, 0x3F⟩, 2999999, true) := by decide
theorem test_runRedraw : fieldOf (fun s => s.disp) (exec (.runRedraw 3600) { inRun with runDeadline := 3002400 }) =
    some ⟨0x66, 0xEF, 0x6D, 0x6F⟩ := by decide

/-! ## Witnesses: hypotheses that can be met, named after the statement -/

theorem ne_not : ∀ x : Seg8, x ≠ ~~~x := by decide

/-- A pattern that is surely another one. -/
def other (p : Pattern) : Pattern := { p with d0 := ~~~p.d0 }

theorem ne_other (p : Pattern) : p ≠ other p := fun h => ne_not p.d0 (congrArg Pattern.d0 h)

theorem witness_ExcludedWordsAreRefused :
    (presented (.stim8 0x02)).queue = ⟨.stim8 0x02, []⟩ :: [] ∧ (0x02 : BitVec 8).extractLsb' 1 5 ≠ 0 ∧
    (presented (.stim8 0xC1)).queue = ⟨.stim8 0xC1, []⟩ :: [] ∧
    ((0xC1 : BitVec 8).extractLsb' 6 2 = 0b11 ∧ (0xC1 : BitVec 8).getLsbD 0 = true) ∧
    (presented (.dig4 10)).queue = ⟨.dig4 10, []⟩ :: [] ∧ 10 ≤ (10 : BitVec 4).toNat ∧
    (presented (.apply 0)).queue = ⟨.apply 0, []⟩ :: [] ∧ (presented (.glyph 3)).queue = ⟨.glyph 3, []⟩ :: [] := by
  decide

theorem witness_StepPerformsThePresentedInstruction :
    (presented (.stim8 0x40)).queue = ⟨.stim8 0x40, []⟩ :: [] ∧ decode (.stim8 0x40) = .ok .tick ∧
    State.reset.queue = [] := ⟨rfl, by decide, rfl⟩

theorem witness_RemainSubtractsModulo : inRun.driveState = .run ∧ inIdle.driveState ≠ .run := by decide

theorem witness_LogicalTimeAdvancesByFactor :
    State.reset.factor ≠ 0 ∧ State.reset.horizon ∧ (∃ t, exec .tick State.reset = .next t ∧ t.horizon) ∧
    State.reset.rawMs.toNat + 2 < 2 ^ 32 ∧ (∃ t, runTrace (ticks 2) State.reset = .next t ∧ t.horizon) :=
  ⟨by decide, by decide, ⟨_, rfl, by decide⟩, by decide, ⟨_, rfl, by decide⟩⟩

theorem witness_FirePulsesExactlyWhenEnabled :
    inRun.steppingEn = true ∧ ({ inRun with gaps := [[.tick, .fire]] } : State).gaps.headD [] = [.tick, .fire] ∧
    inHold.steppingEn = false := by decide

theorem witness_StepIntervalIsTheFloorQuotient :
    State.reset.factor ≠ 0 ∧ ({ State.reset with factor := 0 } : State).factor = 0 := by decide

theorem witness_FireDependsOnTheFlagOnly : inRun.steppingEn = { inRun with driveState := .idle }.steppingEn ∧
    (∃ t, exec .fire inRun = .next t) ∧ (∃ t, exec .fire { inRun with driveState := .idle } = .next t) :=
  ⟨rfl, ⟨_, rfl⟩, ⟨_, rfl⟩⟩

theorem witness_CountdownShowsRoundedUpTime :
    6000000 ≤ (6000000 : Time).toNat ∧ (5999000 : Time).toNat ≤ 5999000 ∧
    ((5999000 : Time).toNat + 999) / 1000 = (10 * (9 : Fin 10).val + (9 : Fin 10).val) * 60 +
      (10 * (5 : Fin 10).val + (9 : Fin 10).val) ∧ (5 : Fin 10).val < 6 := by decide

theorem witness_CountdownGapLeavesDigitZeroOpen :
    (5999000 < (5999001 : Time).toNat ∧ (5999001 : Time).toNat < 6000000) ∧
    (5999000 < (5999999 : Time).toNat ∧ (5999999 : Time).toNat < 6000000) := by decide

theorem witness_CountdownPatternsAreInjective :
    inGap 5999000 = false ∧ inGap 6000000 = false ∧ (∃ u, exec (.countdown 5999000) State.reset = .next u) ∧
    (∃ u, exec (.countdown 6000000) State.reset = .next u) ∧ isCountdown fullCountdown = true :=
  ⟨by decide, by decide, ⟨_, rfl⟩, ⟨_, rfl⟩, by decide⟩

theorem witness_RenderWritesOnlyChanges : Config.blank = State.reset.last ∧ fullCountdown ≠ State.reset.last := by decide

theorem witness_RenderTwiceWritesOnce : fullCountdown ≠ State.reset.last ∧
    ∃ t u, exec (.render fullCountdown) State.reset = .next t ∧ exec (.render fullCountdown) t = .next u :=
  ⟨by decide, _, _, rfl, rfl⟩

theorem witness_DisplayWritesNeverRepeat : Instr.isEvent .tick = true ∧ State.reset.writesDiffer ∧
    ∃ t, exec .tick State.reset = .next t := ⟨rfl, by decide, _, rfl⟩

theorem witness_CountersFollowTheHistory : State.reset.countersAgree ∧ ∃ t, exec .fire State.reset = .next t :=
  ⟨⟨rfl, rfl⟩, _, rfl⟩

theorem witness_HeldThroughBootStaysInIdle :
    (∀ i ∈ [Instr.tick, .fire, .cycle 0], i = .tick ∨ i = .fire ∨ i = .cycle 0) ∧
    (∃ t, runTrace [.reset 0, .tick, .fire, .cycle 0] State.reset = .next t) ∧
    (∃ t, runTrace [.reset 0, .tick, .fire] State.reset = .next t) := ⟨by decide, ⟨_, rfl⟩, ⟨_, rfl⟩⟩

theorem witness_ClickMovesIdleToHold : inIdle.driveState = .idle ∧ inIdle.prevBtn = 1 := by decide

theorem witness_RedrawRendersTheRemainingTime : inRun.driveState = .run ∧ inHold.driveState ≠ .run := by decide

theorem witness_RowsToIdleStopTheDrive :
    Instr.tRunIdleExp 0xD ∈ [Instr.tInitIdle 0xD, .tRunIdleExp 0xD, .tRunIdleBtn 0xD] := by decide

theorem witness_StayRowsKeepOnlyTheButton : Instr.tHoldStay 0x8 ∈ [Instr.tIdleStay 0x8, .tHoldStay 0x8] := by decide

theorem witness_RunStayRowRedraws : inRun.driveState = .run ∧ inRun.gaps = [] := ⟨rfl, rfl⟩

theorem witness_FirstCycleEntersIdle : State.reset.driveState = .init ∧ ∃ t, exec (.cycle 0) inRun = .next t :=
  ⟨rfl, _, rfl⟩

theorem witness_CycleWithoutEdgeStays :
    (inIdle.driveState = .idle ∧ ¬ (inIdle.prevBtn = 1 ∧ (1 : Bit) = 0)) ∧
    (inHold.driveState = .hold ∧ ¬ ({ inHold with prevBtn := 0 }.prevBtn = 1 ∧ (0 : Bit) = 0)) := by decide

theorem witness_PressInIdleEntersHold : inIdle.driveState = .idle ∧ inIdle.prevBtn = 1 := by decide

theorem witness_PressInHoldEntersRun : inHold.driveState = .hold ∧ inHold.prevBtn = 1 := by decide

theorem witness_RunBeforeTheDeadlineRedraws :
    inRun.driveState = .run ∧ ¬ (inRun.prevBtn = 1 ∧ (1 : Bit) = 0) ∧
    (3000039 : Time) = ({ inRun with rawMs := 3000039 }.rawMs +
      BitVec.ofNat 32 ((inRun.gaps.take 2).flatten.count .tick)) * inRun.factor ∧
    (3000039 : Time).toNat < inRun.runDeadline.toNat := by decide

theorem witness_RunEndsOnPressOrDeadline :
    inRun.driveState = .run ∧ (inRun.prevBtn = 1 ∧ (0 : Bit) = 0) ∧
    inRun.runDeadline.toNat ≤ (({ inRun with rawMs := 3000040 }.rawMs +
      BitVec.ofNat 32 ((inRun.gaps.take 2).flatten.count .tick)) * inRun.factor).toNat := by decide

theorem witness_SteadyCycleWritesNoFlag : ∃ t, exec (.cycle 1) inRun = .next t ∧ t.driveState = inRun.driveState :=
  ⟨_, rfl, (runCycle_driveState 1 inRun).trans (by decide)⟩

theorem witness_OneStepPerPress :
    (∃ t, exec (.cycle 0) inRun = .next t) ∧ (inRun.prevBtn = 1 ∧ (0 : Bit) = 0) ∧ inRun.driveState ≠ .init ∧
    (∃ t, exec (.cycle 1) inRun = .next t) ∧ ¬ (inRun.prevBtn = 1 ∧ (1 : Bit) = 0) :=
  ⟨⟨_, rfl⟩, by decide, by decide, ⟨_, rfl⟩, by decide⟩

theorem witness_CycleWritesOnlyItsOwnRegisters : (∃ t, exec (.cycle 0) inRun = .next t) ∧ inRun.gaps = [] :=
  ⟨⟨_, rfl⟩, rfl⟩

/-- A run whose last pattern is not the Idle glyph, with firings placed in the last three gaps. -/
def stopping : State :=
  { inRun with
    last := other glyphIdle
    gaps := [[], [], [], [], [], [], [], [.fire], [.fire], [.fire]] }

theorem witness_FireInsideTheStoppingCycle :
    stopping.driveState = .run ∧ stopping.steppingEn = true ∧ stopping.prevBtn = 1 ∧ glyphIdle ≠ stopping.last ∧
    stopping.gaps = [[], [], [], [], [], [], [], [.fire], [.fire], [.fire]] := ⟨rfl, rfl, rfl, ne_other _, rfl⟩

theorem witness_NoPulseBeforeSteppingIsEnabled :
    inHold.driveState = .hold ∧ inHold.steppingEn = false ∧ inHold.prevBtn = 1 ∧
    { inHold with last := Config.blank }.last ≠ fullCountdown ∧ 9 ≤ 9 ∧
    { inHold with gaps := List.replicate 9 [.fire] }.gaps = List.replicate 9 [.fire] := by decide

/-- A run one raw millisecond before its deadline, its button released, with a `TICK`, a cycle and another cycle that the
deadline's `TICK` precedes in its first gap. -/
def ending : State :=
  { inRun with
    rawMs := 3000038
    queue := [⟨.stim8 0x40, []⟩, ⟨.stim8 0x81, [[.fire]]⟩, ⟨.stim8 0x80, [[.tick]]⟩] }

/-- (a): the last sample is the millisecond before the deadline. -/
theorem witness_RunLastsUntilItsDeadline_stays :
    ending.driveState = .run ∧
    ending.queue = [⟨.stim8 0x40, []⟩, ⟨.stim8 0x81, [[.fire]]⟩] ++ [⟨.stim8 0x80, [[.tick]]⟩] ∧
    (∀ x ∈ [(⟨.stim8 0x40, []⟩ : Stimulus), ⟨.stim8 0x81, [[.fire]]⟩], afterReset x = true) ∧
    hasPress ending.prevBtn [⟨.stim8 0x40, []⟩, ⟨.stim8 0x81, [[.fire]]⟩] = false ∧
    ending.rawMs.toNat + traceTicks [⟨.stim8 0x40, []⟩, ⟨.stim8 0x81, [[.fire]]⟩] < 2 ^ 32 ∧
    (ending.rawMs.toNat + traceTicks [⟨.stim8 0x40, []⟩, ⟨.stim8 0x81, [[.fire]]⟩]) * ending.factor.toNat < 2 ^ 32 ∧
    sampleTimes ending.factor.toNat ending.rawMs.toNat [⟨.stim8 0x40, []⟩, ⟨.stim8 0x81, [[.fire]]⟩] = [3000039] ∧
    ending.runDeadline.toNat = 3000040 := by decide

/-- (b): the sample of the last cycle is the deadline. -/
theorem witness_RunLastsUntilItsDeadline_ends :
    let s := { ending with prevBtn := 0, queue := [⟨.stim8 0x80, []⟩, ⟨.stim8 0x40, []⟩, ⟨.stim8 0x80, [[.tick]]⟩] }
    s.driveState = .run ∧ s.queue = [⟨.stim8 0x80, []⟩, ⟨.stim8 0x40, []⟩] ++ ⟨.stim8 0x80, [[.tick]]⟩ :: [] ∧
    (∀ x ∈ [(⟨.stim8 0x80, []⟩ : Stimulus), ⟨.stim8 0x40, []⟩], afterReset x = true) ∧
    (levelOf ⟨.stim8 0x80, [[.tick]]⟩).isSome = true ∧ hasPress s.prevBtn s.queue = false ∧
    (s.rawMs.toNat + traceTicks s.queue) * s.factor.toNat < 2 ^ 32 ∧
    sampleTimes s.factor.toNat s.rawMs.toNat s.queue = [3000038] ++ [3000040] ∧ s.runDeadline.toNat = 3000040 := by
  decide

/-- A cycle that samples the level `c`, with `n` `TICK`s in its first gap. -/
def lateCycle (c : Code) (n : Nat) : Stimulus := ⟨c, [List.replicate n .tick]⟩

theorem ticksOf_lateCycle (b : Bit) (c : Code) (n : Nat) (h : decode c = .ok (.cycle b)) : ticksOf (lateCycle c n) = n := by
  simp [ticksOf, lateCycle, h]

theorem sampleTimes_lateCycle (b : Bit) (c : Code) (f raw n : Nat) (tr : List Stimulus) (h : decode c = .ok (.cycle b)) :
    sampleTimes f raw (lateCycle c n :: tr) = (raw + n) * f :: sampleTimes f (raw + n) tr := by
  rw [sampleTimes, ticksOf_lateCycle b c n h]
  simp [levelOf, lateCycle, h]

/-- (c): entered at 40 with the press still held at the next cycle, which samples 50; the last sample is the deadline. -/
theorem witness_RunLastsUntilItsDeadline_entered :
    let press := lateCycle (.stim8 0x80) 0
    let held := lateCycle (.stim8 0x80) 10
    let last := lateCycle (.stim8 0x81) 2999990
    let s : State := { inHold with queue := press :: ([held] ++ last :: []) }
    s.driveState = .hold ∧ s.prevBtn = 1 ∧ s.queue = press :: ([held] ++ last :: []) ∧ levelOf press = some 0 ∧
    (∀ x ∈ [held], afterReset x = true) ∧ (levelOf last).isSome = true ∧ hasPress 0 ([held] ++ [last]) = false ∧
    s.rawMs.toNat + traceTicks (press :: ([held] ++ [last])) = 3000040 ∧ s.factor.toNat = 1 ∧
    sampleTimes s.factor.toNat s.rawMs.toNat (press :: ([held] ++ [last])) = 40 :: ([50] ++ [3000040]) ∧
    40 + 3000000 < 2 ^ 32 ∧ (40 :: ([50] ++ [3000040])).IsChain (fun a c => c ≤ a + 3000000) := by
  have h0 : decode (.stim8 0x80) = .ok (.cycle 0) := by decide
  have h1 : decode (.stim8 0x81) = .ok (.cycle 1) := by decide
  refine ⟨rfl, rfl, rfl, rfl, fun x hx => ?_, rfl, rfl, ?_, rfl, ?_, by decide, by decide⟩
  · obtain rfl := List.mem_singleton.1 hx
    rfl
  · rw [traceTicks, List.map_cons, List.singleton_append, List.map_cons, List.map_cons, ticksOf_lateCycle _ _ _ h0,
      ticksOf_lateCycle _ _ _ h0, ticksOf_lateCycle _ _ _ h1]
    decide
  · rw [List.singleton_append, sampleTimes_lateCycle _ _ _ _ _ _ h0, sampleTimes_lateCycle _ _ _ _ _ _ h0,
      sampleTimes_lateCycle _ _ _ _ _ _ h1]
    decide

theorem inRun_boundary : inRun.Boundary :=
  ⟨by decide, by decide, ⟨rfl, by decide, fun _ => rfl⟩, ⟨nofun, nofun, fun _ _ => by decide⟩,
    ⟨rfl, rfl⟩, fun _ => by decide, .inl rfl, fun _ _ => by decide⟩

theorem witness_RunNeverShowsZero : inRun.Boundary ∧ ∃ t, exec (.cycle 1) inRun = .next t ∧ t.driveState = .run ∧
    t.pastHorizon = false :=
  ⟨inRun_boundary, _, rfl, (runCycle_driveState 1 inRun).trans (by decide), by decide⟩

theorem witness_StepKeepsTheBoundaryInvariants :
    ({ inRun with queue := [⟨.stim8 0x81, [[.fire]]⟩] } : State).Boundary ∧
    ({ inRun with queue := [⟨.stim8 0x81, [[.fire]]⟩] } : State).eventsOnly ∧
    ∃ t, step { inRun with queue := [⟨.stim8 0x81, [[.fire]]⟩] } = .next t := by
  refine ⟨⟨inRun_boundary.1, inRun_boundary.2, inRun_boundary.3, inRun_boundary.4, inRun_boundary.5, inRun_boundary.6,
    inRun_boundary.7, inRun_boundary.8⟩, ?_, _, rfl⟩
  intro it h
  cases h with
  | head => exact ⟨_, rfl⟩
  | tail _ h => cases h

theorem witness_EventsAlwaysComplete :
    ∀ it ∈ (presented (.stim8 0x40)).queue, ∃ i : Instr, i.isEvent = true ∧ encode i = some it.code := by
  intro it h
  cases h with
  | head => exact ⟨.tick, rfl, rfl⟩
  | tail _ h => cases h

theorem witness_EveryRunIsFair : (presented (.stim8 0x40)).legalQueue ∧ State.reset.legalQueue :=
  ⟨witness_EventsAlwaysComplete, nofun⟩

end Sys2Proof.Tests
end

section
/-! The selector table (30_encoding.md R72, R73). A selector is its three fields put together, so the sixteen selectors
are walked by state, edge and deadline, as the table lists its rows. -/

namespace Sys2Proof.Machine

theorem selector_of_fields : ∀ sel : BitVec 4, selector (selState sel) (selEdge sel) (selExp sel) = sel := by decide

theorem exists_selector (sel : BitVec 4) : ∃ st edge exp, selector st edge exp = sel :=
  ⟨_, _, _, selector_of_fields sel⟩

/-- Settles O2. The split is R73's: `Init` reads neither flag, `Idle` and `Hold` read the edge, `Run` reads the deadline
where there is no edge; in the other cases the deadline bit is the table's don't-care. -/
theorem selectorTableIsExact : Obligations.SelectorTableIsExact := by
  unfold Obligations.SelectorTableIsExact
  intro sel
  obtain ⟨st, edge, exp, rfl⟩ := exists_selector sel
  obtain ⟨hst, hedge, hexp⟩ := selector_fields st edge exp
  rw [hst, hedge, hexp]
  cases st with
  | init => cases edge <;> cases exp <;> rfl
  | idle =>
    cases edge with
    | false => cases exp <;> rfl
    | true => cases exp <;> rfl
  | hold =>
    cases edge with
    | false => cases exp <;> rfl
    | true => cases exp <;> rfl
  | run =>
    cases edge with
    | false =>
      cases exp with
      | false => rfl
      | true => rfl
    | true => cases exp <;> rfl

end Sys2Proof.Machine
end

section
/-! The display's renderer and glyph rows (42_display.md R135, R140). `RENDER` has two paths, told apart by whether the
pattern is `LAST`; each path is given up to preemption, from the renderer's frame, and where nothing falls into its gaps. -/

namespace Sys2Proof.Machine

theorem exec_render (p : Pattern) (s : State) : exec (.render p) s = .next (renderPattern p s) := rfl

theorem exec_glyphIdle (s : State) : exec .glyphIdle s = .next (latchPattern glyphIdle s) := rfl

theorem exec_glyphHold (s : State) : exec .glyphHold s = .next (latchPattern glyphHold s) := rfl

/-- What `RENDER(p)` of a pattern that is not `LAST` leaves: the request is kept, and the display has been written. -/
def State.rewritten (s : State) (p : Pattern) : State :=
  { s with
    disp := p
    last := p
    phys := p
    writeCount := s.writeCount + 1
    history := .dispWrite p :: s.history }

theorem keepPattern_dispWrite_requestPattern (p : Pattern) (s : State) :
    keepPattern (dispWrite p (requestPattern p s)) = s.rewritten p := rfl

/-- The history is one of the preempting agents' own fields, so it takes no part in the comparison. -/
theorem sameButPreempted_withHistory {t u : State} (h : t.sameButPreempted u) (es : List IfaceEvent) :
    t.sameButPreempted { u with history := es } := h

theorem renderPattern_frame_of_eq_last {p : Pattern} {s : State} (h : p = s.last) :
    (renderPattern p s).sameButPreempted { s with disp := p } := by
  have hf := renderPattern_frame p s
  simp only [if_pos h] at hf
  rwa [← h]

theorem renderPattern_frame_of_ne_last {p : Pattern} {s : State} (h : p ≠ s.last) :
    (renderPattern p s).sameButPreempted (s.rewritten p) := by
  have hf := renderPattern_frame p s
  simp only [if_neg h] at hf
  exact sameButPreempted_withHistory hf _

/-- Settles O21. The two clauses are the two paths of the renderer: on the first it only sets `DISP`, on the second it
also writes the display once and keeps the pattern. -/
theorem renderWritesOnlyChanges : Obligations.RenderWritesOnlyChanges := by
  unfold Obligations.RenderWritesOnlyChanges
  constructor
  · intro s p h
    have hexact : s.gaps = [] → renderPattern p s = { s with disp := p } := fun hg =>
      (renderPattern_noGaps p hg).trans (if_pos h)
    exact ⟨_, exec_render p s, renderPattern_frame_of_eq_last h, hexact⟩
  · intro s p h
    have hexact : s.gaps = [] → renderPattern p s = s.rewritten p := fun hg =>
      calc renderPattern p s
        _ = keepPattern (dispWrite p (requestPattern p s)) := (renderPattern_noGaps p hg).trans (if_neg h)
        _ = s.rewritten p := keepPattern_dispWrite_requestPattern p s
    exact ⟨_, exec_render p s, renderPattern_frame_of_ne_last h, hexact⟩

/-- Settles O17. Each glyph row latches its glyph as the pattern result, which is the one field it writes. -/
theorem glyphRowsAnswerTheGlyphs : Obligations.GlyphRowsAnswerTheGlyphs := by
  unfold Obligations.GlyphRowsAnswerTheGlyphs
  intro s
  exact ⟨exec_glyphIdle s, exec_glyphHold s⟩

end Sys2Proof.Machine
end

section
/-! The button's edge row (43_button.md R151). `EDGE(cur)` latches the press-edge of the retained level and `cur`; when
that is 1 is a fact about the two levels alone. -/

namespace Sys2Proof.Machine

theorem exec_edge (cur : Bit) (s : State) : exec (.edge cur) s = .next (latchEdge cur s) := rfl

theorem pressEdge_eq_true_iff (prev cur : Bit) : pressEdge prev cur = true ↔ (prev = 1 ∧ cur = 0) := by
  constructor
  · intro h
    by_contra hlevels
    exact Bool.false_ne_true ((pressEdge_false hlevels).symm.trans h)
  · exact pressEdge_true

theorem latchEdge_frame (cur : Bit) (s : State) :
    latchEdge cur s = { s with sig := { s.sig with edge := (latchEdge cur s).sig.edge } } := rfl

/-- Settles O25. The signal after the row is the press-edge of `PREV_BTN` and `cur`, and it is the one field the row
writes. -/
theorem edgeIsReleasedThenPressed : Obligations.EdgeIsReleasedThenPressed := by
  unfold Obligations.EdgeIsReleasedThenPressed
  intro s cur
  have hsignal : (latchEdge cur s).sig.edge = true ↔ (s.prevBtn = 1 ∧ cur = 0) := by
    rw [latchEdge_sig]
    exact pressEdge_eq_true_iff s.prevBtn cur
  exact ⟨latchEdge cur s, exec_edge cur s, hsignal, latchEdge_frame cur s⟩

end Sys2Proof.Machine
end

section
/-! The state machine (44_state_machine.md R165 to R173, R186). A cycle is a chain of operations, each of which does to
the state what a plain update does, exactly where nothing falls into its gaps and else up to what the preempting agents
write. `ActsAs` says that of an operation, `Reaches` of a chain of them; the cycle statements are read off the chains of
a cycle that enters a state and of one that does nothing. -/

namespace Sys2Proof.Machine

/-! ## Chains of operations with gaps -/

/-- The operation `f`, gaps included, does what the update `g` does: exactly with no gaps, and else up to preemption.
`congr` lets `g` follow an operation whose outcome is known up to preemption only. -/
structure ActsAs (f g : State → State) : Prop where
  frame : ∀ s, (f s).sameButPreempted (g s)
  noGaps : ∀ s, s.gaps = [] → f s = g s
  congr : ∀ s t, s.sameButPreempted t → (g s).sameButPreempted (g t)
  gaps : ∀ s, (g s).gaps = s.gaps

/-- An event from `s` has come to `t`, where without preemption it would have come to `u`. -/
structure Reaches (s t u : State) : Prop where
  frame : t.sameButPreempted u
  noGaps : s.gaps = [] → t = u
  gaps : u.gaps = s.gaps

theorem Reaches.andThen {s t u : State} {f g : State → State} (h : Reaches s t u) (hfg : ActsAs f g) :
    Reaches s (f t) (g u) where
  frame := sameButPreempted_trans (hfg.frame t) (hfg.congr t u h.frame)
  noGaps hg := by
    rw [h.noGaps hg]
    exact hfg.noGaps u (h.gaps.trans hg)
  gaps := (hfg.gaps u).trans h.gaps

theorem exec_cycle (b : Bit) (s : State) : exec (.cycle b) s = .next (runCycle b s) := rfl

theorem Reaches.completesAs_cycle {b : Bit} {s u : State} (h : Reaches s (runCycle b s) u) :
    State.completesAs (.cycle b) s u :=
  ⟨runCycle b s, exec_cycle b s, h.frame, h.noGaps⟩

/-! ## The parts of a cycle -/

/-- What steps 1 to 5 leave: the level presented and read, and the signals latched. -/
def State.sensing (b : Bit) (s : State) : State :=
  { s with btnN := b, sig := sensed b s, history := .pinRead b :: s.history }

/-- What step 8 leaves. -/
def State.keepingButton (s : State) : State := { s with prevBtn := s.sig.cur }

/-- What an entry action does before its flags: `RENDER(p)`, then the motor pin. -/
def State.showing (p : Pattern) (motor : Bool) (s : State) : State :=
  { s with
    disp := p
    last := p
    phys := if p = s.last then s.phys else p
    writeCount := if p = s.last then s.writeCount else s.writeCount + 1
    motorEn := motor
    history := .pinWrite .motorEnN (if motor then 0 else 1) ::
      (if p = s.last then s.history else .dispWrite p :: s.history) }

/-- What the entry actions of a target state leave (R174 to R176). -/
def State.entered (target : DriveState) (t : Time) (s : State) : State :=
  match target with
  | .init => s
  | .idle => { s.showing glyphIdle false with steppingEn := false }
  | .hold => { s.showing glyphHold true with steppingEn := false }
  | .run => { s.showing fullCountdown true with steppingEn := true, runDeadline := deadlineFrom t }

/-- What a change of state leaves: the entry actions, then `DRIVE_STATE`. -/
def State.changed (target : DriveState) (t : Time) (s : State) : State :=
  { s.entered target t with driveState := target }

theorem senseCycle_reaches (b : Bit) (s : State) : Reaches s (senseCycle b s) (s.sensing b) where
  frame := sameButPreempted_withHistory (senseCycle_frame b s) _
  noGaps hg := senseCycle_noGaps b hg
  gaps := rfl

theorem applyEntry_actsAs (target : DriveState) (t : Time) :
    ActsAs (applyEntry target t) (State.entered target t) where
  frame s := by
    cases target with
    | init => exact sameButPreempted_refl s
    | idle => exact sameButPreempted_withHistory (enterIdle_frame s) _
    | hold => exact sameButPreempted_withHistory (enterHold_frame s) _
    | run => exact sameButPreempted_withHistory (enterRun_frame t s) _
  noGaps s hg := by
    cases target with
    | init => rfl
    | idle => exact enterIdle_noGaps hg
    | hold => exact enterHold_noGaps hg
    | run => exact enterRun_noGaps t hg
  congr s u h := by
    unfold State.sameButPreempted at h ⊢
    rw [h]
    cases target with
    | init => rfl
    | idle => rfl
    | hold => rfl
    | run => rfl
  gaps s := by cases target <;> rfl

/-- No preempting agent owns `DRIVE_STATE`, so writing it respects equality up to preemption. -/
theorem withDriveState_congr (st : DriveState) {s t : State} (h : s.sameButPreempted t) :
    { s with driveState := st }.sameButPreempted { t with driveState := st } := by
  unfold State.sameButPreempted at h ⊢
  rw [h]

theorem changeState_actsAs (target : DriveState) (t : Time) :
    ActsAs (changeState target t) (State.changed target t) where
  frame s := sameButPreempted_trans (changeState_frame target t s)
    (withDriveState_congr target ((applyEntry_actsAs target t).frame s))
  noGaps s hg := by
    have hentry := (applyEntry_actsAs target t).noGaps s hg
    have hgaps : (applyEntry target t s).gaps = [] := by
      rw [hentry, (applyEntry_actsAs target t).gaps, hg]
    rw [changeState_noGaps target t hgaps, hentry]
    rfl
  congr s u h := withDriveState_congr target ((applyEntry_actsAs target t).congr s u h)
  gaps s := (applyEntry_actsAs target t).gaps s

theorem endCycle_actsAs : ActsAs endCycle State.keepingButton where
  frame s := endCycle_frame s
  noGaps s hg := endCycle_noGaps hg
  congr s t h := by
    unfold State.sameButPreempted at h ⊢
    rw [h]
    rfl
  gaps s := rfl

theorem discardSignals_actsAs : ActsAs discardSignals discardSignals where
  frame s := sameButPreempted_refl _
  noGaps s _ := rfl
  congr s t h := by
    unfold State.sameButPreempted at h ⊢
    rw [h]
    rfl
  gaps s := rfl

/-! ## The two kinds of cycle -/

/-- A cycle whose next state is another one: sense, change state once, keep the level, discard the signals. -/
theorem cycle_completes_changed {b : Bit} {s : State} {target : DriveState}
    (hnext : (sensed b s).next = target) (hne : target ≠ s.driveState) :
    State.completesAs (.cycle b) s
      (discardSignals (((s.sensing b).changed target (sampleTime s)).keepingButton)) := by
  apply Reaches.completesAs_cycle
  rw [runCycle_change b s (hnext ▸ hne), hnext]
  exact (((senseCycle_reaches b s).andThen (changeState_actsAs target _)).andThen endCycle_actsAs).andThen
    discardSignals_actsAs

/-- A cycle that stays outside Run: sense, keep the level, discard the signals. -/
theorem cycle_completes_stayed {b : Bit} {s : State} (hnext : (sensed b s).next = s.driveState)
    (hrun : s.driveState ≠ .run) :
    State.completesAs (.cycle b) s (discardSignals ((s.sensing b).keepingButton)) := by
  apply Reaches.completesAs_cycle
  rw [runCycle_stay b s hnext hrun]
  exact ((senseCycle_reaches b s).andThen endCycle_actsAs).andThen discardSignals_actsAs

/-! ## The transition function (R165) -/

theorem nextOf_ne_init (st : DriveState) (edge exp : Bool) : nextOf st edge exp ≠ .init := by
  cases st with
  | init => exact DriveState.noConfusion
  | idle => cases edge <;> exact DriveState.noConfusion
  | hold => cases edge <;> exact DriveState.noConfusion
  | run => cases edge <;> cases exp <;> exact DriveState.noConfusion

theorem nextOf_no_edge {st : DriveState} (hst : st = .idle ∨ st = .hold) (exp : Bool) : nextOf st false exp = st := by
  rcases hst with rfl | rfl
  · rfl
  · rfl

theorem nextOf_run_eq_idle {edge exp : Bool} (h : edge = true ∨ exp = true) : nextOf .run edge exp = .idle := by
  have hor : (edge || exp) = true := (Bool.or_eq_true _ _).mpr h
  exact if_pos hor

/-- `NEXT` as the cycle computes it in step 5. -/
theorem sensed_next {b : Bit} {s : State} {st : DriveState} (hst : s.driveState = st) :
    (sensed b s).next =
      nextOf st (pressEdge s.prevBtn b) (st == .run && deadlineReached (sampleTime s) s.runDeadline) := by
  rw [← hst]
  rfl

theorem deadlineReached_eq_true_iff (t deadline : Time) :
    deadlineReached t deadline = true ↔ deadline.toNat ≤ t.toNat := by
  unfold deadlineReached
  rw [decide_eq_true_iff, BitVec.le_def]

theorem exec_nextState (sel : BitVec 4) (s : State) : exec (.nextState sel) s = .next (latchNext sel s) := rfl

theorem latchNext_selector_next (st : DriveState) (edge exp : Bool) (s : State) :
    (latchNext (selector st edge exp) s).sig.next = nextOf st edge exp := by
  obtain ⟨hst, hedge, hexp⟩ := selector_fields st edge exp
  simp only [latchNext_sig, hst, hedge, hexp]

theorem latchNext_frame (sel : BitVec 4) (s : State) :
    latchNext sel s = { s with sig := { s.sig with next := (latchNext sel s).sig.next } } := rfl

/-- Settles O30. The selector's fields are the state and flags it was made of, so the row is the transition function's;
each clause is one row of its table. -/
theorem nextFollowsTheTable : Obligations.NextFollowsTheTable := by
  unfold Obligations.NextFollowsTheTable
  intro s st edge exp
  refine ⟨_, exec_nextState _ s, latchNext_frame _ s, ?_⟩
  rw [latchNext_selector_next]
  refine ⟨?_, ?_, ?_, ?_, ?_, ?_, ?_⟩
  · rintro rfl
    rfl
  · rintro rfl rfl
    rfl
  · rintro rfl rfl
    rfl
  · rintro rfl rfl
    rfl
  · rintro rfl rfl
    rfl
  · rintro rfl h
    exact nextOf_run_eq_idle h
  · rintro rfl rfl rfl
    rfl

/-! ## The cycles -/

/-- Settles O41. `NEXT` of `Init` is Idle whatever the flags, and `NEXT` never answers `Init`. -/
theorem firstCycleEntersIdle : Obligations.FirstCycleEntersIdle := by
  unfold Obligations.FirstCycleEntersIdle
  constructor
  · intro s b hst
    have hne : DriveState.idle ≠ s.driveState := by simp [hst]
    exact cycle_completes_changed (sensed_next hst) hne
  · intro s t b ht
    obtain rfl : runCycle b s = t := Host.Outcome.next.inj ht
    rw [runCycle_driveState]
    exact nextOf_ne_init _ _ _

/-- Settles O42. Without a press-edge `NEXT` of Idle and of Hold is the state itself. -/
theorem cycleWithoutEdgeStays : Obligations.CycleWithoutEdgeStays := by
  unfold Obligations.CycleWithoutEdgeStays
  intro s b hst hedge
  have hnext : (sensed b s).next = s.driveState := by
    rw [sensed_next rfl, pressEdge_false hedge]
    exact nextOf_no_edge hst _
  have hrun : s.driveState ≠ .run := by
    rcases hst with hst | hst <;> simp [hst]
  exact cycle_completes_stayed hnext hrun

/-- Settles O43. A press-edge makes `NEXT` of Idle Hold, whose entry actions do the rest. -/
theorem pressInIdleEntersHold : Obligations.PressInIdleEntersHold := by
  unfold Obligations.PressInIdleEntersHold
  intro s hst hprev
  have hnext : (sensed 0 s).next = .hold := by
    rw [sensed_next hst, pressEdge_true ⟨hprev, rfl⟩]
    rfl
  exact cycle_completes_changed hnext (by simp [hst])

/-- Settles O44. A press-edge makes `NEXT` of Hold Run; the entry actions take the sample that the cycle latched after
its first two gaps. -/
theorem pressInHoldEntersRun : Obligations.PressInHoldEntersRun := by
  unfold Obligations.PressInHoldEntersRun
  intro s hst hprev
  have hnext : (sensed 0 s).next = .run := by
    rw [sensed_next hst, pressEdge_true ⟨hprev, rfl⟩]
    rfl
  exact cycle_completes_changed hnext (by simp [hst])

/-- Settles O46. A press-edge sets the edge flag, a sample at or past the deadline the other one; either makes `NEXT` of
Run Idle. -/
theorem runEndsOnPressOrDeadline : Obligations.RunEndsOnPressOrDeadline := by
  unfold Obligations.RunEndsOnPressOrDeadline
  intro s b hst hcause
  have hflags : pressEdge s.prevBtn b = true ∨ deadlineReached (sampleTime s) s.runDeadline = true :=
    hcause.imp pressEdge_true (deadlineReached_eq_true_iff _ _).mpr
  have hnext : (sensed b s).next = .idle := (sensed_next hst).trans (nextOf_run_eq_idle hflags)
  exact cycle_completes_changed hnext (by simp [hst])

end Sys2Proof.Machine
end

section
/-! Code words (30_encoding.md R71 to R86). The decoder inverts the encoder on well-formed rows, and what it answers
for a word is a well-formed row that encodes to that word; each direction goes format by format. -/

namespace Sys2Proof.Machine

/-! ## From a row to its word and back -/

/-- The word of a well-formed row decodes to the row: for a transition row, which is its selector, this is a fact about
each of the sixteen selectors. -/
theorem decode_encode {i : Instr} {c : Code} (hwf : i.wf = true) (henc : encode i = some c) : decode c = .ok i := by
  cases i <;> simp only [encode, Option.some.injEq, reduceCtorEq] at henc <;> subst henc
  case reset | tick | cycle | fire => exact decode_event rfl rfl
  case tInitIdle sel | tIdleStay sel | tIdleHold sel | tHoldStay sel | tHoldRun sel | tRunStay sel
      | tRunIdleExp sel | tRunIdleBtn sel =>
    revert sel
    decide
  all_goals rfl

/-! ## From a word to its row and back, by format -/

/-- A stimulus word without reserved bits is its two fields put together (R79). -/
theorem stimWord_of_fields : ∀ w : BitVec 8, w.extractLsb' 1 5 = 0 →
    stimWord (w.extractLsb' 6 2) (w.extractLsb' 0 1) = w := by decide

theorem stimKind_of_ne : ∀ k : BitVec 2, k ≠ 0b00 → k ≠ 0b10 → k ≠ 0b01 → k = 0b11 := by decide

theorem encode_decodeStim8 {w : BitVec 8} {i : Instr} (h : decodeStim8 w = .ok i) :
    i.wf = true ∧ encode i = some (.stim8 w) := by
  simp only [decodeStim8] at h
  split at h
  · cases h
  · next hreserved =>
    have hw := stimWord_of_fields w (not_not.mp hreserved)
    split at h
    · next hkind =>
      cases h
      exact ⟨rfl, by rw [encode, ← hkind, hw]⟩
    · next hreset =>
      split at h
      · next hkind =>
        cases h
        exact ⟨rfl, by rw [encode, ← hkind, hw]⟩
      · next hcycle =>
        split at h
        · cases h
        · next hb =>
          rw [not_not.mp hb] at hw
          split at h
          · next hkind =>
            cases h
            exact ⟨rfl, by rw [encode, ← hkind, hw]⟩
          · next htick =>
            cases h
            exact ⟨rfl, by rw [encode, ← stimKind_of_ne _ hreset hcycle htick, hw]⟩

/-- Every selector's row is one it matches (R73), and carries it. -/
theorem encode_decodeSel4 : ∀ sel : BitVec 4,
    (decodeSel4 sel).wf = true ∧ encode (decodeSel4 sel) = some (.sel4 sel) := by decide

theorem encode_decodeDig4 {d : BitVec 4} {i : Instr} (h : decodeDig4 d = .ok i) :
    i.wf = true ∧ encode i = some (.dig4 d) := by
  have hd : BitVec.ofNat 4 d.toNat = d := by simp
  unfold decodeDig4 at h
  split at h <;> cases h
  all_goals
    next hn =>
    rw [hn] at hd
    exact ⟨rfl, by rw [← hd]; rfl⟩

theorem stateCode_stateOfCode : ∀ c : BitVec 2, stateCode (stateOfCode c) = c := by decide

theorem encode_decodeApply {c : BitVec 2} {i : Instr} (h : decodeApply c = .ok i) :
    i.wf = true ∧ encode i = some (.apply c) := by
  have hc := stateCode_stateOfCode c
  unfold decodeApply at h
  split at h <;> cases h
  all_goals
    next hst =>
    rw [hst] at hc
    exact ⟨rfl, by rw [← hc]; rfl⟩

theorem encode_decodeGlyph {c : BitVec 2} {i : Instr} (h : decodeGlyph c = .ok i) :
    i.wf = true ∧ encode i = some (.glyph c) := by
  have hc := stateCode_stateOfCode c
  unfold decodeGlyph at h
  split at h <;> cases h
  all_goals
    next hst =>
    rw [hst] at hc
    exact ⟨rfl, by rw [← hc]; rfl⟩

theorem encode_decode {c : Code} {i : Instr} (h : decode c = .ok i) : i.wf = true ∧ encode i = some c := by
  cases c with
  | stim8 w => exact encode_decodeStim8 h
  | sel4 sel =>
    cases h
    exact encode_decodeSel4 sel
  | dig4 d => exact encode_decodeDig4 h
  | apply c => exact encode_decodeApply h
  | glyph c => exact encode_decodeGlyph h

/-- Settles O1. One direction is by the row, the other by the format of the word. -/
theorem decodeAndEncodeAgree : Obligations.DecodeAndEncodeAgree := by
  unfold Obligations.DecodeAndEncodeAgree
  intro i c
  exact ⟨fun ⟨hwf, henc⟩ => decode_encode hwf henc, encode_decode⟩

end Sys2Proof.Machine
end

section
/-! The step (00_scope.md R8, 30_encoding.md R83 to R86): what is fetched from a queue and what from an environment with
nothing queued, and what the step does with a word that decodes and with one that does not. -/

namespace Sys2Proof.Machine

theorem fetch_queued {s : State} {it : Stimulus} {rest : List Stimulus} (h : s.queue = it :: rest) :
    fetch s = (it.code, { s with queue := rest, gaps := it.gaps }) := by
  unfold fetch
  rw [h]

theorem fetch_drawn {s : State} (h : s.queue = []) :
    fetch s = ((Config.envBlock s.draws).first.kind.code,
      { s with
        draws := s.draws + 1
        gaps := (Config.envBlock s.draws).first.gaps
        queue := (fairRest (Config.envBlock s.draws)).map asStimulus }) := by
  unfold fetch
  rw [h]

theorem step_of_decode {s : State} {i : Instr} (h : decode (fetch s).1 = .ok i) :
    step s = settle (exec i (fetch s).2) := by
  unfold step performCode
  rw [h]

theorem step_of_refuses {s : State} {e : DecodeError} (h : decode (fetch s).1 = .error e) :
    step s = .refused (.undecodable e) := by
  unfold step performCode
  rw [h]

theorem step_queued {s : State} {it : Stimulus} {rest : List Stimulus} {i : Instr} (hq : s.queue = it :: rest)
    (h : decode it.code = .ok i) : step s = settle (exec i { s with queue := rest, gaps := it.gaps }) := by
  have hf := fetch_queued hq
  rw [step_of_decode (i := i) (by rw [hf]; exact h), hf]

theorem step_queued_refuses {s : State} {it : Stimulus} {rest : List Stimulus} {e : DecodeError}
    (hq : s.queue = it :: rest) (h : decode it.code = .error e) : step s = .refused (.undecodable e) :=
  step_of_refuses (by rw [fetch_queued hq]; exact h)

/-- The three events that may follow `RESET` (00_scope.md R8). -/
theorem decode_envKind (k : EnvKind) :
    ∃ i, i.isEvent = true ∧ (∀ b, i ≠ .reset b) ∧ decode k.code = .ok i := by
  cases k with
  | tick => exact ⟨.tick, rfl, nofun, decode_event rfl rfl⟩
  | cycle b => exact ⟨.cycle b, rfl, nofun, decode_event rfl rfl⟩
  | fire => exact ⟨.fire, rfl, nofun, decode_event rfl rfl⟩

/-- Settles O3. -/
theorem writtenWordsDecodeToTheirRows : Obligations.WrittenWordsDecodeToTheirRows := by
  unfold Obligations.WrittenWordsDecodeToTheirRows
  decide

/-! ## Words that select no row -/

theorem extractLsb'_zero_of_getLsbD : ∀ w : BitVec 8, w.getLsbD 0 = true → w.extractLsb' 0 1 = 1 := by decide

theorem decodeStim8_reserved {w : BitVec 8} (h : w.extractLsb' 1 5 ≠ 0) :
    decodeStim8 w = .error (.reservedStimulus w) := if_pos h

/-- `TICK` and `FIRE` have no level, so their words have bit 0 clear (R84). -/
theorem decodeStim8_level {w : BitVec 8} (hkind : w.extractLsb' 6 2 = 0b01 ∨ w.extractLsb' 6 2 = 0b11)
    (hb : w.getLsbD 0 = true) : decodeStim8 w = .error (.reservedStimulus w) := by
  have hlevel := extractLsb'_zero_of_getLsbD w hb
  rcases hkind with hkind | hkind <;> simp [decodeStim8, hkind, hlevel]

theorem decodeDig4_large : ∀ d : BitVec 4, 10 ≤ d.toNat → decodeDig4 d = .error (.noDigit d) := by decide

/-- Settles O4. Each clause is a format: its excluded words are those its decoder refuses, and a refused word is refused
by the step. -/
theorem excludedWordsAreRefused : Obligations.ExcludedWordsAreRefused := by
  unfold Obligations.ExcludedWordsAreRefused
  refine ⟨?_, ?_, ?_, ?_⟩
  · rintro s w g rest hq (hreserved | ⟨hkind, hb⟩)
    · exact step_queued_refuses hq (decodeStim8_reserved hreserved)
    · exact step_queued_refuses hq (decodeStim8_level hkind hb)
  · intro s d g rest hq hd
    exact step_queued_refuses hq (decodeDig4_large d hd)
  · intro s g rest hq
    exact step_queued_refuses hq rfl
  · rintro s c g rest hq (rfl | rfl)
    · exact step_queued_refuses hq rfl
    · exact step_queued_refuses hq rfl

/-- Settles O5. A queued word is fetched with its gaps; with nothing queued the word is that of the first event of the
drawn stretch. -/
theorem stepPerformsThePresentedInstruction : Obligations.StepPerformsThePresentedInstruction := by
  unfold Obligations.StepPerformsThePresentedInstruction
  constructor
  · intro s c g rest i hq hc
    exact step_queued (it := ⟨c, g⟩) hq hc
  · intro s hq
    obtain ⟨i, hevent, hreset, hdecode⟩ := decode_envKind (Config.envBlock s.draws).first.kind
    have hf := fetch_drawn hq
    refine ⟨i, hevent, hreset, hdecode, ?_⟩
    rw [step_of_decode (i := i) (by rw [hf]; exact hdecode), hf]

end Sys2Proof.Machine
end

section
/-! The time source and the step interval (40_time_source.md R90 to R98, 41_step_pulse.md R110). Inside the horizon no
product of the clock and its factor wraps, so there `NOW` is the product in unbounded integers. -/

namespace Sys2Proof.Machine

theorem exec_tick (s : State) : exec .tick s = .next (tickOnce s) := rfl

theorem exec_now (s : State) : exec .now s = .next (latchTime s) := rfl

theorem exec_expired (t : Time) (s : State) : exec (.expired t) s = .next (latchExpired t s) := rfl

theorem exec_remain (t : Time) (s : State) : exec (.remain t) s = .next (latchRemain t s) := rfl

theorem exec_stepInterval (s : State) : exec .stepInterval s = .next (setStepInterval s) := rfl

theorem tickOnce_frame (s : State) :
    tickOnce s = { s with rawMs := (tickOnce s).rawMs, pastHorizon := (tickOnce s).pastHorizon } := rfl

/-- Settles O6. -/
theorem tickAdvancesRawTime : Obligations.TickAdvancesRawTime := by
  unfold Obligations.TickAdvancesRawTime
  intro s
  have hraw : (tickOnce s).rawMs.toNat = (s.rawMs.toNat + 1) % 2 ^ 32 := by
    rw [tickOnce_rawMs, BitVec.toNat_add]
    rfl
  have hmark : (tickOnce s).pastHorizon = true ↔ (s.pastHorizon = true ∨ ¬ (tickOnce s).horizon) := by
    simp [State.horizon]
  exact ⟨tickOnce s, exec_tick s, hraw, hmark, tickOnce_frame s⟩

/-- Settles O7. -/
theorem nowIsTheScaledRawTime : Obligations.NowIsTheScaledRawTime := by
  unfold Obligations.NowIsTheScaledRawTime
  intro s
  have hsample : (latchTime s).sig.t.toNat = (s.rawMs.toNat * s.factor.toNat) % 2 ^ 32 := by
    rw [latchTime_sig]
    exact BitVec.toNat_mul _ _
  exact ⟨latchTime s, exec_now s, hsample, rfl⟩

/-- Settles O8. Outside Run the conjunction with the state test answers 0 without looking at the deadline. -/
theorem expiredIsTheUnsignedComparison : Obligations.ExpiredIsTheUnsignedComparison := by
  unfold Obligations.ExpiredIsTheUnsignedComparison
  intro s t
  have hsignal : (latchExpired t s).sig.exp = true ↔ (s.driveState = .run ∧ s.runDeadline.toNat ≤ t.toNat) := by
    simp [deadlineReached_eq_true_iff]
  exact ⟨latchExpired t s, exec_expired t s, hsignal, rfl⟩

theorem latchRemain_run {s : State} (h : s.driveState = .run) (t : Time) :
    latchRemain t s = { s with sig := { s.sig with rem := s.runDeadline - t } } := if_pos h

theorem latchRemain_notRun {s : State} (h : s.driveState ≠ .run) (t : Time) :
    latchRemain t s = { s with sig := { s.sig with rem := Config.freeRemain s.draws }, draws := s.draws + 1 } :=
  if_neg h

/-- Settles O9. -/
theorem remainSubtractsModulo : Obligations.RemainSubtractsModulo := by
  unfold Obligations.RemainSubtractsModulo
  constructor
  · intro s t hrun
    refine ⟨_, (exec_remain t s).trans (congrArg _ (latchRemain_run hrun t)), ?_, rfl⟩
    rw [BitVec.toNat_sub, Nat.add_comm]
  · intro s t hrun
    exact ⟨_, (exec_remain t s).trans (congrArg _ (latchRemain_notRun hrun t)), rfl, rfl⟩

theorem horizon_iff (s : State) : s.horizon ↔ s.rawMs.toNat * s.factor.toNat + 3000000 < 2 ^ 32 :=
  decide_eq_true_iff

/-- A product that fits is not truncated. -/
theorem logicalNow_toNat {raw factor : Time} (h : raw.toNat * factor.toNat < 2 ^ 32) :
    (logicalNow raw factor).toNat = raw.toNat * factor.toNat := by
  rw [logicalNow, BitVec.toNat_mul, Nat.mod_eq_of_lt h]

theorem logicalNow_of_horizon {s : State} (h : s.horizon) :
    (logicalNow s.rawMs s.factor).toNat = s.rawMs.toNat * s.factor.toNat := by
  rw [horizon_iff] at h
  exact logicalNow_toNat (by omega)

theorem runTrace_append {tr : List Instr} {s t : State} (h : runTrace tr s = .next t) (tr' : List Instr) :
    runTrace (tr ++ tr') s = runTrace tr' t := by
  induction tr generalizing s with
  | nil =>
    cases h
    rfl
  | cons i tr ih =>
    simp only [runTrace, List.cons_append] at h ⊢
    split at h
    · exact ih h
    · cases h
    · cases h

/-- `TICK*n` always completes, advances the clock by `n` and keeps what no `TICK` owns. -/
theorem runTrace_ticks (n : Nat) (s : State) : ∃ t, runTrace (ticks n) s = .next t ∧ t.sameButPreempted s ∧
    t.rawMs = s.rawMs + BitVec.ofNat 32 n := by
  induction n generalizing s with
  | zero => exact ⟨s, rfl, sameButPreempted_refl s, by simp⟩
  | succ n ih =>
    obtain ⟨t, hrun, hframe, hraw⟩ := ih (tickOnce s)
    refine ⟨t, hrun, sameButPreempted_trans hframe (runPreempt_frame s .tick), ?_⟩
    rw [hraw, tickOnce_rawMs, Nat.add_comm, BitVec.ofNat_add, BitVec.add_assoc]
    rfl

/-- Settles O10. The first part needs that the clock itself does not wrap: `FACTOR` is not 0, so it is at most the
product, which fits. The last part compares the truncated product before with the exact one after. -/
theorem logicalTimeAdvancesByFactor : Obligations.LogicalTimeAdvancesByFactor := by
  unfold Obligations.LogicalTimeAdvancesByFactor
  refine ⟨?_, ?_, ?_⟩
  · intro s t u v hfactor hs htick ht hu hv
    obtain rfl := Host.Outcome.next.inj htick
    obtain rfl := Host.Outcome.next.inj hu
    obtain rfl := Host.Outcome.next.inj hv
    have hpos : 0 < s.factor.toNat := Nat.pos_of_ne_zero fun h => hfactor (BitVec.eq_of_toNat_eq h)
    have hle : s.rawMs.toNat ≤ s.rawMs.toNat * s.factor.toNat := Nat.le_mul_of_pos_right _ hpos
    have hlt := (horizon_iff s).mp hs
    have hraw : (tickOnce s).rawMs.toNat = s.rawMs.toNat + 1 := by
      rw [tickOnce_rawMs, BitVec.toNat_add]
      exact Nat.mod_eq_of_lt (by simp; omega)
    calc (logicalNow (tickOnce s).rawMs (tickOnce s).factor).toNat
      _ = (s.rawMs.toNat + 1) * s.factor.toNat := by rw [logicalNow_of_horizon ht, hraw, tickOnce_factor]
      _ = s.rawMs.toNat * s.factor.toNat + s.factor.toNat := by ring
      _ = (logicalNow s.rawMs s.factor).toNat + s.factor.toNat := by rw [logicalNow_of_horizon hs]
  · intro s t u ht hu
    obtain rfl := Host.Outcome.next.inj ht
    obtain rfl := Host.Outcome.next.inj hu
    rfl
  · intro s t u v n hwrap htrace ht hu hv
    obtain ⟨t', hrun, hframe, hraw⟩ := runTrace_ticks n s
    obtain rfl : t' = t := Host.Outcome.next.inj (hrun.symm.trans htrace)
    obtain rfl := Host.Outcome.next.inj hu
    obtain rfl := Host.Outcome.next.inj hv
    have hfactor : t'.factor = s.factor := by rw [hframe]
    have hrawNat : t'.rawMs.toNat = s.rawMs.toNat + n := by
      rw [hraw, BitVec.toNat_add, BitVec.toNat_ofNat, Nat.add_mod_mod, Nat.mod_eq_of_lt hwrap]
    calc (logicalNow s.rawMs s.factor).toNat
      _ ≤ s.rawMs.toNat * s.factor.toNat := by rw [logicalNow, BitVec.toNat_mul]; exact Nat.mod_le _ _
      _ ≤ t'.rawMs.toNat * t'.factor.toNat := by
        rw [hfactor]
        exact Nat.mul_le_mul_right _ (by omega)
      _ = (logicalNow t'.rawMs t'.factor).toNat := (logicalNow_of_horizon ht).symm

theorem stepIntervalOf_ne_zero {factor : Time} (h : factor ≠ 0) : stepIntervalOf factor = 100093 / factor.toNat :=
  if_neg h

/-- Settles O12. -/
theorem stepIntervalIsTheFloorQuotient : Obligations.StepIntervalIsTheFloorQuotient := by
  unfold Obligations.StepIntervalIsTheFloorQuotient
  constructor
  · intro s h
    rw [exec_stepInterval, setStepInterval, stepIntervalOf_ne_zero h]
  · intro s h
    rw [exec_stepInterval, setStepInterval, h]
    rfl

end Sys2Proof.Machine
end

section
/-! The step pulse generator (41_step_pulse.md R112, R113). Only `TICK`s run in the hold of a pulse, so a `FIRE` leaves
an explicit state, but for the horizon mark, which `holdPoint_pastHorizon` gives. -/

namespace Sys2Proof.Machine

theorem exec_fire (s : State) : exec .fire s = .next (fireEvent s) := rfl

/-- A stretch of `TICK`s moves the clock and the mark only. -/
theorem foldl_ticks_frame (g : List Preempt) (s : State) :
    (g.filter (· == .tick)).foldl runPreempt s = { s with
      rawMs := s.rawMs + BitVec.ofNat 32 (g.count .tick)
      pastHorizon := ((g.filter (· == .tick)).foldl runPreempt s).pastHorizon } := by
  induction g generalizing s with
  | nil => ext1 <;> simp
  | cons e g ih =>
    cases e with
    | tick =>
      have hcount : s.rawMs + 1 + BitVec.ofNat 32 (g.count .tick) =
          s.rawMs + BitVec.ofNat 32 (g.count .tick + 1) := by
        rw [BitVec.add_assoc, Nat.add_comm, BitVec.ofNat_add]
        rfl
      have hstep := ih (tickOnce s)
      rw [tickOnce_rawMs, hcount] at hstep
      rw [List.count_cons_self]
      exact hstep
    | fire =>
      rw [List.count_cons_of_ne (by decide)]
      exact ih s

theorem holdPoint_eq (s : State) : holdPoint s = { s with
    rawMs := s.rawMs + BitVec.ofNat 32 ((s.gaps.headD []).count .tick)
    pastHorizon := (holdPoint s).pastHorizon
    gaps := s.gaps.tail } := by
  unfold holdPoint
  split
  · next h => ext1 <;> simp [h]
  · next g rest h =>
    have hframe := foldl_ticks_frame g { s with gaps := rest }
    rw [h]
    exact hframe

theorem fireEvent_disabled {s : State} (h : s.steppingEn = false) : fireEvent s = s := by
  unfold fireEvent
  rw [h]
  rfl

theorem fireEvent_enabled {s : State} (h : s.steppingEn = true) :
    fireEvent s = deassertStep (holdPoint (assertStep s)) := by
  unfold fireEvent
  rw [h]
  rfl

theorem fireEvent_eq {s : State} (h : s.steppingEn = true) : fireEvent s = { s with
    stepPin := 0
    pulsing := false
    stepCount := s.stepCount + 1
    history := .pinWrite .step 0 :: .pinWrite .step Config.stepActive :: s.history
    rawMs := s.rawMs + BitVec.ofNat 32 ((s.gaps.headD []).count .tick)
    pastHorizon := (fireEvent s).pastHorizon
    gaps := s.gaps.tail } := by
  rw [fireEvent_enabled h, deassertStep_pastHorizon, holdPoint_eq (assertStep s)]
  rfl

/-- Settles O11. -/
theorem firePulsesExactlyWhenEnabled : Obligations.FirePulsesExactlyWhenEnabled := by
  unfold Obligations.FirePulsesExactlyWhenEnabled
  constructor
  · intro s h
    refine ⟨fireEvent s, exec_fire s, fireEvent_eq h, ?_⟩
    rw [fireEvent_enabled h]
    exact holdPoint_pastHorizon (assertStep s)
  · intro s h
    rw [exec_fire, fireEvent_disabled h]

/-- Settles O14. What is added to the history is the pulse or nothing, as the flag says. -/
theorem fireDependsOnTheFlagOnly : Obligations.FireDependsOnTheFlagOnly := by
  unfold Obligations.FireDependsOnTheFlagOnly
  intro s u s' u' hflag hs hu
  obtain rfl := Host.Outcome.next.inj hs
  obtain rfl := Host.Outcome.next.inj hu
  cases h : s.steppingEn with
  | true =>
    have h' : u.steppingEn = true := hflag ▸ h
    rw [fireEvent_eq h, fireEvent_eq h']
    exact ⟨[.pinWrite .step 0, .pinWrite .step Config.stepActive], rfl, rfl, 1, rfl, rfl⟩
  | false =>
    have h' : u.steppingEn = false := hflag ▸ h
    rw [fireEvent_disabled h, fireEvent_disabled h']
    exact ⟨[], rfl, rfl, 0, rfl, rfl⟩

/-! ## The factor and the firing period -/

/-- `ACCEL_FACTOR` is within the bounds of 43_button.md R153. -/
theorem accelFactor_bounds : 2 ≤ Config.accelFactor.toNat ∧ Config.accelFactor.toNat ≤ 991 := by
  have h := Config.accelOffset.isLt
  rw [Config.accelFactor, BitVec.toNat_ofNat, Nat.mod_eq_of_lt (by omega)]
  omega

theorem bootFactor_bounds (b : Bit) : 1 ≤ (bootFactor b).toNat ∧ (bootFactor b).toNat ≤ 991 := by
  unfold bootFactor
  split
  · obtain ⟨hlow, hhigh⟩ := accelFactor_bounds
    omega
  · decide

/-- A factor of at most 991 leaves more than the 100 microseconds of the pulse (R113). -/
theorem pulseWidth_lt_stepInterval {factor : Time} (hlow : 1 ≤ factor.toNat) (hhigh : factor.toNat ≤ 991) :
    Config.pulseWidthUs < stepIntervalOf factor := by
  have hne : factor ≠ 0 := by
    rintro rfl
    exact absurd hlow (by decide)
  rw [stepIntervalOf_ne_zero hne]
  calc Config.pulseWidthUs
    _ < 100093 / 991 := by decide
    _ ≤ 100093 / factor.toNat := Nat.div_le_div_left hhigh hlow

/-- Settles O13. -/
theorem firingPeriodExceedsPulseWidth : Obligations.FiringPeriodExceedsPulseWidth := by
  unfold Obligations.FiringPeriodExceedsPulseWidth
  obtain ⟨hlow, hhigh⟩ := accelFactor_bounds
  refine ⟨hlow, hhigh, ?_⟩
  intro b
  obtain ⟨hboot, hboot'⟩ := bootFactor_bounds b
  exact pulseWidth_lt_stepInterval hboot hboot'

end Sys2Proof.Machine
end

section
/-! The rows that latch one value or write one register (42_display.md R125 to R136, 43_button.md R150, R152). -/

namespace Sys2Proof.Machine

theorem exec_sample (s : State) : exec .sample s = .next (samplePin s) := rfl

theorem exec_bootMode (b : Bit) (s : State) : exec (.bootMode b) s = .next (setBootMode b s) := rfl

/-- Settles O15. Each row is a decoder fact and the digit's code, which the row latches. -/
theorem digitEncoderGivesItsCodes : Obligations.DigitEncoderGivesItsCodes := by
  unfold Obligations.DigitEncoderGivesItsCodes
  intro s
  exact ⟨⟨rfl, rfl⟩, ⟨rfl, rfl⟩, ⟨rfl, rfl⟩, ⟨rfl, rfl⟩, ⟨rfl, rfl⟩, ⟨rfl, rfl⟩, ⟨rfl, rfl⟩, ⟨rfl, rfl⟩, ⟨rfl, rfl⟩,
    ⟨rfl, rfl⟩⟩

theorem glyphsLegal_iff (idle hold : Pattern) : glyphsLegal idle hold = true ↔
    idle ≠ hold ∧ idle ≠ Config.blank ∧ isCountdown idle = false ∧ isCountdown hold = false := by
  simp [glyphsLegal, and_assoc]

theorem glyphsLegal_defaults : glyphsLegal Config.defaultGlyphIdle Config.defaultGlyphHold = true := by decide

/-- Whatever is supplied, what is in use is legal: an illegal supply is not used (entry 7). -/
theorem glyphsLegal_inUse : glyphsLegal glyphIdle glyphHold = true := by
  unfold glyphIdle glyphHold glyphs
  split
  · next h => exact h
  · exact glyphsLegal_defaults

/-- Settles O16. -/
theorem glyphsAreLegal : Obligations.GlyphsAreLegal := by
  unfold Obligations.GlyphsAreLegal
  exact ⟨(glyphsLegal_iff _ _).mp glyphsLegal_inUse, (glyphsLegal_iff _ _).mp glyphsLegal_defaults⟩

/-- Settles O26. -/
theorem sampleReadsThePin : Obligations.SampleReadsThePin := by
  unfold Obligations.SampleReadsThePin
  intro s
  exact exec_sample s

theorem bootFactor_pressed : bootFactor 0 = Config.accelFactor := rfl

theorem bootFactor_released : bootFactor 1 = 1 := rfl

/-- Settles O27. -/
theorem bootModeSelectsTheFactor : Obligations.BootModeSelectsTheFactor := by
  unfold Obligations.BootModeSelectsTheFactor
  intro s
  constructor
  · rw [exec_bootMode, setBootMode, bootFactor_pressed]
  · rw [exec_bootMode, setBootMode, bootFactor_released]

end Sys2Proof.Machine
end

section
/-! Countdown patterns (42_display.md R137 to R139). Outside the gap `COUNTDOWN` shows a number of seconds below 6000
in four digits; the digits determine the number, and every choice of digits with a legal tens digit of the seconds is
one. -/

namespace Sys2Proof.Machine

theorem exec_countdown (d : Time) (s : State) :
    exec (.countdown d) s = .next (latchPattern (countdownAt d s) (countDraw d s)) := rfl

/-- The pattern of four digits, the separator on the second. -/
def digitsPattern (a b c e : Fin 10) : Pattern := ⟨enc7 a, enc7 b ||| 0x80, enc7 c, enc7 e⟩

/-- The pattern of a number of seconds. -/
def clockPattern (n : Nat) : Pattern := mmss 0 (n / 60) (n % 60)

/-- The seconds that `COUNTDOWN` shows for a duration outside the gap. -/
def shownSeconds (d : Time) : Nat := if 6000000 ≤ d.toNat then 0 else (d.toNat + 999) / 1000

/-! ## Digits -/

theorem enc7_injective : ∀ a b : Fin 10, enc7 a = enc7 b → a = b := by decide

theorem enc7_sep_injective : ∀ a b : Fin 10, enc7 a ||| 0x80 = enc7 b ||| 0x80 → a = b := by decide

theorem digitsPattern_injective {a b c e a' b' c' e' : Fin 10}
    (h : digitsPattern a b c e = digitsPattern a' b' c' e') : a = a' ∧ b = b' ∧ c = c' ∧ e = e' := by
  simp only [digitsPattern, Pattern.mk.injEq] at h
  obtain ⟨ha, hb, hc, he⟩ := h
  exact ⟨enc7_injective _ _ ha, enc7_sep_injective _ _ hb, enc7_injective _ _ hc, enc7_injective _ _ he⟩

theorem digit_val {n : Nat} (h : n < 10) : (digit n).val = n := Nat.mod_eq_of_lt h

theorem digit_of_val (a : Fin 10) : digit a.val = a := Fin.ext (digit_val a.isLt)

/-- The digits of a number of seconds below 6000, each in its range. -/
theorem clockPattern_eq_digits {n : Nat} (h : n < 6000) : clockPattern n =
    digitsPattern (digit (n / 60 / 10)) (digit (n / 60 % 10)) (digit (n % 60 / 10)) (digit (n % 60 % 10)) := by
  have hminutes : n / 60 / 10 < 10 := by omega
  simp only [clockPattern, mmss, hminutes, if_true]
  rfl

theorem clockPattern_of_digits {n : Nat} {a b c e : Fin 10}
    (hn : n = (10 * a.val + b.val) * 60 + (10 * c.val + e.val)) (hc : c.val < 6) :
    clockPattern n = digitsPattern a b c e := by
  have ha := a.isLt
  have hb := b.isLt
  have he := e.isLt
  have hmm : n / 60 = 10 * a.val + b.val := by omega
  have hss : n % 60 = 10 * c.val + e.val := by omega
  have htens (x y : Fin 10) : (10 * x.val + y.val) / 10 = x.val := by omega
  have hunits (x y : Fin 10) : (10 * x.val + y.val) % 10 = y.val := by omega
  rw [clockPattern_eq_digits (by omega), hmm, hss, htens, hunits, htens, hunits]
  simp only [digit_of_val]

/-- The pattern determines the seconds. -/
theorem clockPattern_injective {n m : Nat} (hn : n < 6000) (hm : m < 6000) (h : clockPattern n = clockPattern m) :
    n = m := by
  rw [clockPattern_eq_digits hn, clockPattern_eq_digits hm] at h
  obtain ⟨ha, hb, hc, he⟩ := digitsPattern_injective h
  have hval {x y : Nat} (hx : x < 10) (hy : y < 10) (hxy : digit x = digit y) : x = y := by
    rw [← digit_val hx, ← digit_val hy, hxy]
  have ha := hval (by omega) (by omega) ha
  have hb := hval (by omega) (by omega) hb
  have hc := hval (by omega) (by omega) hc
  have he := hval (by omega) (by omega) he
  omega

/-! ## Which patterns are countdowns -/

theorem mem_map_digits {f : Fin 10 → Seg8} {m : Nat} (hm : m ≤ 10) (x : Seg8) :
    x ∈ (List.range m).map (fun n => f (digit n)) ↔ ∃ a : Fin 10, a.val < m ∧ x = f a := by
  simp only [List.mem_map, List.mem_range]
  constructor
  · rintro ⟨n, hn, rfl⟩
    exact ⟨digit n, by rwa [digit_val (by omega)], rfl⟩
  · rintro ⟨a, ha, rfl⟩
    exact ⟨a.val, ha, by rw [digit_of_val]⟩

theorem contains_digitCodes (x : Seg8) : digitCodes.contains x = true ↔ ∃ a : Fin 10, x = enc7 a := by
  rw [List.contains_iff_mem]
  refine (mem_map_digits (le_refl 10) x).trans ?_
  simp

theorem contains_sepCodes (x : Seg8) :
    (digitCodes.map (· ||| Config.sepMask)).contains x = true ↔ ∃ b : Fin 10, x = enc7 b ||| 0x80 := by
  rw [List.contains_iff_mem, digitCodes, List.map_map]
  refine (mem_map_digits (f := fun b => enc7 b ||| 0x80) (le_refl 10) x).trans ?_
  simp

theorem contains_tensCodes (x : Seg8) :
    (digitCodes.take 6).contains x = true ↔ ∃ c : Fin 10, c.val < 6 ∧ x = enc7 c := by
  rw [List.contains_iff_mem, digitCodes, ← List.map_take]
  exact mem_map_digits (m := 6) (by decide) x

/-- R138: four digit codes, the separator on the second, the third below 6. -/
theorem isCountdown_iff_digits (p : Pattern) :
    isCountdown p = true ↔ ∃ a b c e : Fin 10, c.val < 6 ∧ p = digitsPattern a b c e := by
  simp only [isCountdown, Bool.and_eq_true, contains_digitCodes, contains_sepCodes, contains_tensCodes]
  constructor
  · rintro ⟨⟨⟨⟨a, ha⟩, ⟨b, hb⟩⟩, ⟨c, hc6, hc⟩⟩, ⟨e, he⟩⟩
    exact ⟨a, b, c, e, hc6, by rw [digitsPattern, ← ha, ← hb, ← hc, ← he]⟩
  · rintro ⟨a, b, c, e, hc6, rfl⟩
    exact ⟨⟨⟨⟨a, rfl⟩, ⟨b, rfl⟩⟩, ⟨c, hc6, rfl⟩⟩, ⟨e, rfl⟩⟩

theorem isCountdown_clockPattern {n : Nat} (h : n < 6000) : isCountdown (clockPattern n) = true := by
  rw [isCountdown_iff_digits]
  exact ⟨_, _, _, _, by rw [digit_val (by omega)]; omega, clockPattern_eq_digits h⟩

/-! ## What `COUNTDOWN` answers -/

theorem notInGap_iff (d : Time) : inGap d = false ↔ (d.toNat ≤ 5999000 ∨ 6000000 ≤ d.toNat) := by
  rw [inGap, decide_eq_false_iff_not, Config.sentinelMs]
  omega

theorem shownSeconds_lt {d : Time} (h : inGap d = false) : shownSeconds d < 6000 := by
  rw [notInGap_iff] at h
  unfold shownSeconds
  split <;> omega

/-- Outside the gap the free digit is not used. -/
theorem countdownOf_eq_clockPattern {d : Time} (h : inGap d = false) (free : Seg8) :
    countdownOf free d = clockPattern (shownSeconds d) := by
  rw [countdownOf_free free 0 d h]
  unfold countdownOf shownSeconds Config.sentinelMs
  split
  · rfl
  · rfl

theorem exec_countdown_notInGap {d : Time} (h : inGap d = false) (s : State) : exec (.countdown d) s =
    .next { s with sig := { s.sig with pat := clockPattern (shownSeconds d) } } := by
  rw [exec_countdown, countdownAt, countdownOf_eq_clockPattern h, countDraw, h]
  rfl

/-- In the gap the minutes have three digits, of which the first is free (R139). -/
theorem countdownOf_inGap {d : Time} (hlow : 5999000 < d.toNat) (hhigh : d.toNat < 6000000) (free : Seg8) :
    countdownOf free d = ⟨free, 0xBF, 0x3F, 0x3F⟩ := by
  have hs : ¬ Config.sentinelMs ≤ d.toNat := by
    unfold Config.sentinelMs
    omega
  have hr : (d.toNat + 999) / 1000 = 6000 := by omega
  rw [countdownOf, if_neg hs]
  simp only [hr]
  rfl

/-- Settles O18. From the sentinel on no second is shown; below it the digits are those of the rounded-up seconds. -/
theorem countdownShowsRoundedUpTime : Obligations.CountdownShowsRoundedUpTime := by
  unfold Obligations.CountdownShowsRoundedUpTime
  constructor
  · intro s d h
    have hshown : shownSeconds d = 0 := if_pos h
    rw [exec_countdown_notInGap ((notInGap_iff d).mpr (.inr h)), hshown]
    rfl
  · intro s d a b c e h hdigits hc
    have hshown : shownSeconds d = (d.toNat + 999) / 1000 := if_neg (by omega)
    rw [exec_countdown_notInGap ((notInGap_iff d).mpr (.inl h)), clockPattern_of_digits (hshown.trans hdigits) hc]
    rfl

/-- Settles O19. -/
theorem countdownGapLeavesDigitZeroOpen : Obligations.CountdownGapLeavesDigitZeroOpen := by
  unfold Obligations.CountdownGapLeavesDigitZeroOpen
  intro s d hlow hhigh
  have hgap : inGap d = true := decide_eq_true ⟨hlow, hhigh⟩
  rw [exec_countdown, countdownAt, countdownOf_inGap hlow hhigh, countDraw, hgap]
  rfl

/-- Every number of seconds below 6000 is shown by a duration outside the gap. -/
theorem exists_shownSeconds {n : Nat} (h : n < 6000) : ∃ d : Time, inGap d = false ∧ shownSeconds d = n := by
  have hd : (BitVec.ofNat 32 (n * 1000) : Time).toNat = n * 1000 := by
    rw [BitVec.toNat_ofNat]
    omega
  refine ⟨BitVec.ofNat 32 (n * 1000), ?_, ?_⟩
  · rw [notInGap_iff, hd]
    omega
  · rw [shownSeconds, hd, if_neg (by omega)]
    omega

theorem enc7_bit7 : ∀ a : Fin 10, (enc7 a).getLsbD 7 = false ∧ (enc7 a ||| 0x80).getLsbD 7 = true := by decide

/-- Settles O20. Injectivity and the form of the patterns are about the four digits; that every such pattern is reached
is the duration that shows its seconds. -/
theorem countdownPatternsAreInjective : Obligations.CountdownPatternsAreInjective := by
  unfold Obligations.CountdownPatternsAreInjective
  refine ⟨?_, ?_, isCountdown_iff_digits, ?_⟩
  · intro s u v d e hd he hu hv
    rw [exec_countdown_notInGap hd] at hu
    rw [exec_countdown_notInGap he] at hv
    obtain rfl := Host.Outcome.next.inj hu
    obtain rfl := Host.Outcome.next.inj hv
    exact ⟨clockPattern_injective (shownSeconds_lt hd) (shownSeconds_lt he), congrArg clockPattern⟩
  · intro s p
    constructor
    · intro hp
      obtain ⟨a, b, c, e, hc, rfl⟩ := (isCountdown_iff_digits p).mp hp
      obtain ⟨d, hd, hshown⟩ := exists_shownSeconds (n := (10 * a.val + b.val) * 60 + (10 * c.val + e.val)) (by omega)
      exact ⟨d, _, hd, exec_countdown_notInGap hd s, clockPattern_of_digits hshown hc⟩
    · rintro ⟨d, u, hd, hu, rfl⟩
      rw [exec_countdown_notInGap hd] at hu
      obtain rfl := Host.Outcome.next.inj hu
      exact isCountdown_clockPattern (shownSeconds_lt hd)
  · intro p hp
    obtain ⟨a, b, c, e, -, rfl⟩ := (isCountdown_iff_digits p).mp hp
    exact ⟨(enc7_bit7 b).2, (enc7_bit7 a).1, (enc7_bit7 c).1, (enc7_bit7 e).1⟩

end Sys2Proof.Machine
end

section
/-! Power-on (70_reset_and_hazards.md R230, R231): what `RESET(b)` leaves, in every field, and that it meets the
boundary invariants. -/

namespace Sys2Proof.Machine

theorem exec_reset (b : Bit) (s : State) : exec (.reset b) s = .next (powerOn b s) := rfl

/-- The reset values, then what the boot sequence writes: the factor, the step interval, and the calls in order. -/
theorem powerOn_eq (b : Bit) (s : State) : powerOn b s = { powerOnRegisters b s with
    factor := bootFactor b
    stepIntervalUs := stepIntervalOf (bootFactor b)
    history := [.timerStart (stepIntervalOf (bootFactor b)), .dispBrightness Config.brightness, .pinRead b,
      .pinWrite .motorEnN 1, .pinWrite .dir Config.dirLevel, .pinWrite .step 0] } := rfl

theorem accelFactor_ne_zero : Config.accelFactor ≠ 0 := by
  intro h
  have hlow := accelFactor_bounds.1
  rw [h] at hlow
  exact absurd hlow (by decide)

theorem stepIntervalOf_accelFactor : stepIntervalOf (bootFactor 0) = 100093 / Config.accelFactor.toNat :=
  stepIntervalOf_ne_zero accelFactor_ne_zero

theorem stepIntervalOf_released : stepIntervalOf (bootFactor 1) = 100093 := by decide

/-- Settles O55. -/
theorem resetLeavesTheResetValues : Obligations.ResetLeavesTheResetValues := by
  unfold Obligations.ResetLeavesTheResetValues
  intro s b
  refine ⟨_, (exec_reset b s).trans (congrArg _ (powerOn_eq b s)), rfl, rfl, rfl, rfl, rfl, rfl, rfl, rfl, rfl, rfl,
    rfl, rfl, rfl, rfl, rfl, ?_, ?_, rfl⟩
  · rintro rfl
    exact ⟨bootFactor_pressed, stepIntervalOf_accelFactor⟩
  · rintro rfl
    exact ⟨bootFactor_released, stepIntervalOf_released⟩

/-- Settles O56. -/
theorem resetStateIsPowerOnReleased : Obligations.ResetStateIsPowerOnReleased := by
  unfold Obligations.ResetStateIsPowerOnReleased
  intro s
  refine ⟨_, (exec_reset 1 s).trans (congrArg _ (powerOn_eq 1 s)), ?_⟩
  rw [stepIntervalOf_released, bootFactor_released]
  rfl

theorem bootFactor_legal (b : Bit) : bootFactor b = Config.normalFactor ∨ bootFactor b = Config.accelFactor := by
  unfold bootFactor
  split
  · exact .inr rfl
  · exact .inl rfl

/-- In `Init` the invariants about Idle, Hold and Run are empty; what is left is that nothing is driven, the display is
blank and the clock is at 0. -/
theorem boundary_of_init {s : State} (hst : s.driveState = .init) (hstep : s.steppingEn = false)
    (hmotor : s.motorEn = false) (hdisp : s.disp = Config.blank) (hlast : s.last = Config.blank)
    (hpulse : s.pulseIdle) (hraw : s.rawMs = 0) (hfactor : s.factorLegal) : s.Boundary where
  stepping := by simp [State.steppingFollows, hst, hstep]
  motor := by simp [State.motorFollows, hst, hmotor]
  synced := ⟨hdisp.trans hlast.symm, fun _ => hlast, fun h => absurd hst h⟩
  tells := by simp [State.displayTells, hst]
  pulse := hpulse
  marked _ := by simp [horizon_iff, hraw]
  legal := hfactor
  near := by simp [State.deadlineNear, hst]

theorem powerOn_boundary (b : Bit) (s : State) : (powerOn b s).Boundary := by
  rw [powerOn_eq]
  exact boundary_of_init rfl rfl rfl rfl rfl ⟨rfl, rfl⟩ rfl (bootFactor_legal b)

/-- Settles O57. -/
theorem resetMeetsTheBoundaryInvariants : Obligations.ResetMeetsTheBoundaryInvariants := by
  unfold Obligations.ResetMeetsTheBoundaryInvariants
  exact ⟨boundary_of_init rfl rfl rfl rfl rfl ⟨rfl, rfl⟩ rfl (.inl rfl), nofun⟩

end Sys2Proof.Machine
end

section
/-! The event history (10_state.md R37, 42_display.md R141). `LogKept` says of two states that an operation between
them keeps what the history, the counters and `LAST` say of each other; it is shown operation by operation, the
renderer and a pulse each as a whole, since between their effects the history is ahead. -/

namespace Sys2Proof.Machine

structure LogKept (s t : State) : Prop where
  counters : s.countersAgree → t.countersAgree
  writes : s.writesDiffer → t.writesDiffer

theorem LogKept.refl (s : State) : LogKept s s := ⟨id, id⟩

theorem LogKept.trans {s t u : State} (h : LogKept s t) (k : LogKept t u) : LogKept s u :=
  ⟨k.counters ∘ h.counters, k.writes ∘ h.writes⟩

/-- What the two invariants speak of is unchanged. -/
theorem logKept_of_same {s t : State} (hhistory : t.history = s.history) (hwrites : t.writeCount = s.writeCount)
    (hsteps : t.stepCount = s.stepCount) (hlast : t.last = s.last) : LogKept s t where
  counters h := by simpa only [State.countersAgree, hhistory, hwrites, hsteps] using h
  writes h := by simpa only [State.writesDiffer, hhistory, hlast] using h

/-- A call that neither writes the display nor asserts `STEP`. -/
def IfaceEvent.isQuiet : IfaceEvent → Bool
  | .pinWrite .step v => v != Config.stepActive
  | .dispWrite _ => false
  | .pinRead _ | .pinWrite .dir _ | .pinWrite .motorEnN _ | .dispBrightness _ | .timerStart _ => true

theorem displayWrites_cons_quiet {e : IfaceEvent} (he : e.isQuiet = true) (h : List IfaceEvent) :
    displayWrites (e :: h) = displayWrites h := by
  cases e with
  | dispWrite p => cases he
  | _ => rfl

theorem pulsesIn_cons_quiet {e : IfaceEvent} (he : e.isQuiet = true) (h : List IfaceEvent) :
    pulsesIn (e :: h) = pulsesIn h := by
  have hne : e ≠ .pinWrite .step Config.stepActive := by
    rintro rfl
    cases he
  exact List.count_cons_of_ne hne

/-- A quiet call is added and nothing else that the invariants speak of changes. -/
theorem logKept_of_quiet {s t : State} {e : IfaceEvent} (he : e.isQuiet = true) (hhistory : t.history = e :: s.history)
    (hwrites : t.writeCount = s.writeCount) (hsteps : t.stepCount = s.stepCount) (hlast : t.last = s.last) :
    LogKept s t where
  counters h := by
    simpa only [State.countersAgree, hhistory, hwrites, hsteps, displayWrites_cons_quiet he, pulsesIn_cons_quiet he]
      using h
  writes h := by simpa only [State.writesDiffer, hhistory, hlast, displayWrites_cons_quiet he] using h

/-- A whole pulse is added and counted once. -/
theorem logKept_of_pulse {s t : State}
    (hhistory : t.history = .pinWrite .step 0 :: .pinWrite .step Config.stepActive :: s.history)
    (hwrites : t.writeCount = s.writeCount) (hsteps : t.stepCount = s.stepCount + 1) (hlast : t.last = s.last) :
    LogKept s t where
  counters h := by
    obtain ⟨hw, hp⟩ := h
    have hcount : pulsesIn t.history = pulsesIn s.history + 1 := by
      rw [hhistory, pulsesIn_cons_quiet rfl]
      exact List.count_cons_self
    exact ⟨by rw [hwrites, hw, hhistory]; rfl, by rw [hsteps, hcount, hp]⟩
  writes h := by
    have hsame : displayWrites t.history = displayWrites s.history := by
      rw [hhistory]
      rfl
    simpa only [State.writesDiffer, hsame, hlast] using h

/-! ## The preempting agents -/

theorem tickOnce_logKept (s : State) : LogKept s (tickOnce s) := logKept_of_same rfl rfl rfl rfl

theorem firePulse_logKept (s : State) : LogKept s (firePulse s) := by
  unfold firePulse
  split
  · exact logKept_of_pulse rfl rfl rfl rfl
  · exact LogKept.refl s

theorem foldl_runPreempt_logKept (g : List Preempt) (s : State) : LogKept s (g.foldl runPreempt s) := by
  induction g generalizing s with
  | nil => exact LogKept.refl s
  | cons e g ih =>
    cases e with
    | tick => exact (tickOnce_logKept s).trans (ih _)
    | fire => exact (firePulse_logKept s).trans (ih _)

theorem withGaps_logKept (g : List (List Preempt)) (s : State) : LogKept s { s with gaps := g } :=
  logKept_of_same rfl rfl rfl rfl

theorem preemptPoint_logKept (s : State) : LogKept s (preemptPoint s) := by
  unfold preemptPoint
  split
  · exact LogKept.refl s
  · exact (withGaps_logKept _ s).trans (foldl_runPreempt_logKept _ _)

theorem LogKept.preempt {s t : State} (h : LogKept s t) : LogKept s (preemptPoint t) :=
  h.trans (preemptPoint_logKept t)

theorem fireEvent_logKept (s : State) : LogKept s (fireEvent s) := by
  cases h : s.steppingEn with
  | true =>
    rw [fireEvent_eq h]
    exact logKept_of_pulse rfl rfl rfl rfl
  | false =>
    rw [fireEvent_disabled h]
    exact LogKept.refl s

/-- What falls into a gap writes no display. -/
theorem displayWrites_foldl_runPreempt (g : List Preempt) (s : State) :
    displayWrites (g.foldl runPreempt s).history = displayWrites s.history := by
  induction g generalizing s with
  | nil => rfl
  | cons e g ih =>
    refine (ih _).trans ?_
    cases e with
    | tick => rfl
    | fire =>
      show displayWrites (firePulse s).history = _
      unfold firePulse
      split <;> rfl

theorem displayWrites_preemptPoint (s : State) :
    displayWrites (preemptPoint s).history = displayWrites s.history := by
  unfold preemptPoint
  split
  · rfl
  · exact displayWrites_foldl_runPreempt _ _

/-! ## The renderer -/

/-- The write path of `RENDER`, taken where the request is not `LAST`: the new newest write is the request, which
differs from the one before it because that one is `LAST`. -/
theorem writeRequest_logKept {s : State} (hne : s.disp ≠ s.last) :
    LogKept s (keepPattern (preemptPoint (dispWrite s.disp s))) where
  counters h := by
    have hwrite : (dispWrite s.disp s).countersAgree := by
      obtain ⟨hw, hp⟩ := h
      refine ⟨?_, ?_⟩
      · rw [dispWrite_writeCount, hw]
        rfl
      · rw [dispWrite_stepCount, dispWrite_history, hp]
        exact (List.count_cons_of_ne (by simp)).symm
    exact (preemptPoint_logKept _).counters hwrite
  writes h := by
    obtain ⟨hlast, hchain⟩ := h
    have hhistory : displayWrites (keepPattern (preemptPoint (dispWrite s.disp s))).history =
        s.disp :: displayWrites s.history := by
      rw [keepPattern_history, displayWrites_preemptPoint]
      rfl
    have hhead : (displayWrites s.history ++ [Config.blank]).head? = some s.last := by
      rw [← hlast]
      cases displayWrites s.history <;> rfl
    refine ⟨?_, ?_⟩
    · rw [hhistory]
      simp
    · rw [hhistory, List.cons_append, List.isChain_cons, hhead]
      refine ⟨?_, hchain⟩
      rintro p ⟨⟩
      exact hne

theorem renderPattern_logKept (p : Pattern) (s : State) : LogKept s (renderPattern p s) := by
  have hrequest : LogKept s (preemptPoint (requestPattern p s)) :=
    LogKept.preempt (logKept_of_same (by simp) (by simp) (by simp) (by simp))
  unfold renderPattern
  simp only
  split
  · next hne => exact hrequest.trans (writeRequest_logKept hne)
  · exact hrequest

theorem renderCountdown_logKept (d : Time) (s : State) : LogKept s (renderCountdown d s) := by
  refine LogKept.trans ?_ (renderPattern_logKept _ _)
  unfold countDraw
  split <;> exact logKept_of_same rfl rfl rfl rfl

/-! ## The parts of a cycle -/

theorem setMotorEn_logKept (v : Bool) (s : State) : LogKept s (setMotorEn v s) :=
  logKept_of_quiet (e := .pinWrite .motorEnN (if v then 0 else 1)) rfl rfl rfl rfl rfl

theorem applyEntry_logKept (target : DriveState) (t : Time) (s : State) : LogKept s (applyEntry target t s) := by
  have hflag (v : Bool) (u : State) : LogKept u (setSteppingEn v u) := logKept_of_same rfl rfl rfl rfl
  have harm (d : Time) (u : State) : LogKept u (armDeadline d u) := logKept_of_same rfl rfl rfl rfl
  have hmotor (v : Bool) (u : State) : LogKept u (preemptPoint (setMotorEn v u)) := (setMotorEn_logKept v u).preempt
  cases target with
  | init => exact LogKept.refl s
  | idle => exact ((renderPattern_logKept _ s).preempt.trans (hmotor _ _)).trans (hflag _ _)
  | hold => exact ((renderPattern_logKept _ s).preempt.trans (hmotor _ _)).trans (hflag _ _)
  | run =>
    exact (((renderCountdown_logKept _ s).preempt.trans (hmotor _ _)).trans (hflag _ _).preempt).trans (harm _ _)

theorem changeState_logKept (target : DriveState) (t : Time) (s : State) : LogKept s (changeState target t s) :=
  (applyEntry_logKept target t s).preempt.trans (logKept_of_same rfl rfl rfl rfl)

theorem latchRemain_logKept (t : Time) (s : State) : LogKept s (latchRemain t s) := by
  unfold latchRemain
  split <;> exact logKept_of_same rfl rfl rfl rfl

theorem redrawRun_logKept (t : Time) (s : State) : LogKept s (redrawRun t s) :=
  (latchRemain_logKept t s).trans (renderCountdown_logKept _ _)

theorem endCycle_logKept (s : State) : LogKept s (endCycle s) :=
  (preemptPoint_logKept s).trans (logKept_of_same rfl rfl rfl rfl)

theorem samplePin_logKept (s : State) : LogKept s (samplePin s) :=
  logKept_of_quiet (e := .pinRead s.btnN) rfl rfl rfl rfl rfl

theorem senseCycle_logKept (b : Bit) (s : State) : LogKept s (senseCycle b s) := by
  have hpresent : LogKept s (presentButton b s) := logKept_of_same rfl rfl rfl rfl
  have hedge (c : Bit) (u : State) : LogKept u (latchEdge c u) := logKept_of_same rfl rfl rfl rfl
  have htime (u : State) : LogKept u (latchTime u) := logKept_of_same rfl rfl rfl rfl
  have hexp (t : Time) (u : State) : LogKept u (latchExpired t u) := logKept_of_same rfl rfl rfl rfl
  have hnext (sel : BitVec 4) (u : State) : LogKept u (latchNext sel u) := logKept_of_same rfl rfl rfl rfl
  exact ((((hpresent.trans (samplePin_logKept _)).preempt.trans (hedge _ _)).preempt.trans (htime _)).preempt.trans
    (hexp _ _)).preempt.trans (hnext _ _).preempt

theorem actCycle_logKept (s : State) : LogKept s (actCycle s) := by
  unfold actCycle
  split
  · exact changeState_logKept _ _ s
  · split
    · exact redrawRun_logKept _ s
    · exact LogKept.refl s

theorem runCycle_logKept (b : Bit) (s : State) : LogKept s (runCycle b s) :=
  (((senseCycle_logKept b s).trans (actCycle_logKept _)).trans (endCycle_logKept _)).trans
    (logKept_of_same rfl rfl rfl rfl)

/-- Power-on starts the history anew, without a display write and without a pulse. -/
theorem powerOn_logKept (b : Bit) (s : State) : LogKept s (powerOn b s) := by
  rw [powerOn_eq]
  exact ⟨fun _ => ⟨rfl, rfl⟩, fun _ => ⟨rfl, List.isChain_singleton _⟩⟩

/-- Every row keeps what the history says. -/
theorem exec_logKept {i : Instr} {s t : State} (h : exec i s = .next t) : LogKept s t := by
  cases i with
  | reset b => cases h; exact powerOn_logKept b s
  | tick => cases h; exact tickOnce_logKept s
  | cycle b => cases h; exact runCycle_logKept b s
  | fire => cases h; exact fireEvent_logKept s
  | tInitIdle sel | tIdleHold sel | tHoldRun sel | tRunIdleExp sel | tRunIdleBtn sel =>
    cases h
    exact (changeState_logKept _ _ s).trans (endCycle_logKept _)
  | tIdleStay sel | tHoldStay sel => cases h; exact endCycle_logKept s
  | tRunStay sel => cases h; exact (redrawRun_logKept _ s).trans (endCycle_logKept _)
  | applyIdle => cases h; exact applyEntry_logKept .idle 0 s
  | applyHold => cases h; exact applyEntry_logKept .hold 0 s
  | applyRun => cases h; exact applyEntry_logKept .run _ s
  | remain t => cases h; exact latchRemain_logKept t s
  | countdown d =>
    cases h
    unfold countDraw
    split <;> exact logKept_of_same rfl rfl rfl rfl
  | render p => cases h; exact renderPattern_logKept p s
  | sample => cases h; exact samplePin_logKept s
  | runRedraw t => cases h; exact redrawRun_logKept t s
  | _ => cases h; exact logKept_of_same rfl rfl rfl rfl

/-- Settles O24. -/
theorem countersFollowTheHistory : Obligations.CountersFollowTheHistory := by
  unfold Obligations.CountersFollowTheHistory
  exact ⟨⟨rfl, rfl⟩, fun i s t hs h => (exec_logKept h).counters hs⟩

/-- Settles O23. -/
theorem displayWritesNeverRepeat : Obligations.DisplayWritesNeverRepeat := by
  unfold Obligations.DisplayWritesNeverRepeat
  exact ⟨⟨rfl, List.isChain_singleton _⟩, fun i s t _ hs h => (exec_logKept h).writes hs⟩

/-- Settles O22. The first call writes and leaves the pattern as `LAST`, so the second finds it there. -/
theorem renderTwiceWritesOnce : Obligations.RenderTwiceWritesOnce := by
  unfold Obligations.RenderTwiceWritesOnce
  intro s t u p hne ht hu
  obtain rfl := Host.Outcome.next.inj ht
  obtain rfl := Host.Outcome.next.inj hu
  simp [hne]

end Sys2Proof.Machine
end

section
/-! The entry actions and the rows by themselves (44_state_machine.md R166 to R177). Each is a chain of operations in
the sense of `ActsAs`; the redraw joins the operations that sections above gave, and the cycle that redraws follows. -/

namespace Sys2Proof.Machine

/-! ## The redraw as an operation -/

theorem Reaches.refl (s : State) : Reaches s s s := ⟨sameButPreempted_refl s, fun _ => rfl, rfl⟩

theorem Reaches.completesAs {i : Instr} {s t u : State} (h : Reaches s t u) (hexec : exec i s = .next t) :
    State.completesAs i s u := ⟨t, hexec, h.frame, h.noGaps⟩

/-- What `RENDER(COUNTDOWN(d))` leaves. -/
def State.counting (d : Time) (s : State) : State :=
  { s with
    disp := countdownAt d s
    last := countdownAt d s
    phys := if countdownAt d s = s.last then s.phys else countdownAt d s
    writeCount := if countdownAt d s = s.last then s.writeCount else s.writeCount + 1
    draws := if inGap d then s.draws + 1 else s.draws
    history := if countdownAt d s = s.last then s.history else .dispWrite (countdownAt d s) :: s.history }

/-- What `RUN_REDRAW(t)` leaves. -/
def State.redrawn (t : Time) (s : State) : State := (latchRemain t s).counting (latchRemain t s).sig.rem

theorem countDraw_draws (d : Time) (s : State) :
    (countDraw d s).draws = if inGap d then s.draws + 1 else s.draws := by
  unfold countDraw
  split <;> rfl

/-- `COUNTDOWN` latches its pattern and counts the digit it drew. -/
theorem exec_countdown_eq (d : Time) (s : State) : exec (.countdown d) s = .next { s with
    sig := { s.sig with pat := countdownAt d s }
    draws := if inGap d then s.draws + 1 else s.draws } := by
  rw [exec_countdown, countDraw]
  split <;> rfl

theorem renderCountdown_frame_counting (d : Time) (s : State) :
    (renderCountdown d s).sameButPreempted (s.counting d) := by
  have hframe := renderCountdown_frame d s
  rw [countDraw_draws] at hframe
  exact sameButPreempted_withHistory hframe _

theorem renderCountdown_eq_counting (d : Time) {s : State} (hg : s.gaps = []) :
    renderCountdown d s = s.counting d := by
  rw [renderCountdown_noGaps d hg, countDraw_draws]
  rfl

theorem counting_congr (d : Time) {s t : State} (h : s.sameButPreempted t) :
    (s.counting d).sameButPreempted (t.counting d) := by
  unfold State.sameButPreempted at h ⊢
  rw [h]
  rfl

theorem latchRemain_congr (t : Time) {s u : State} (h : s.sameButPreempted u) :
    (latchRemain t s).sameButPreempted (latchRemain t u) := by
  unfold State.sameButPreempted at h
  rw [h]
  unfold latchRemain
  split <;> rfl

theorem latchRemain_gaps (t : Time) (s : State) : (latchRemain t s).gaps = s.gaps := by
  unfold latchRemain
  split <;> rfl

theorem redrawRun_actsAs (t : Time) : ActsAs (redrawRun t) (State.redrawn t) where
  frame s := renderCountdown_frame_counting _ _
  noGaps s hg := renderCountdown_eq_counting _ ((latchRemain_gaps t s).trans hg)
  congr s u h := by
    have hremain := latchRemain_congr t h
    have hrem : (latchRemain t s).sig.rem = (latchRemain t u).sig.rem := by rw [hremain]
    unfold State.redrawn
    rw [hrem]
    exact counting_congr _ hremain
  gaps s := latchRemain_gaps t s

/-! ## Entry actions (R174 to R176) -/

theorem exec_applyIdle (s : State) : exec .applyIdle s = .next (applyEntry .idle s.sig.t s) := rfl

theorem exec_applyHold (s : State) : exec .applyHold s = .next (applyEntry .hold s.sig.t s) := rfl

theorem exec_applyRun (s : State) : exec .applyRun s = .next (applyEntry .run s.sig.t s) := rfl

theorem applyEntry_reaches (target : DriveState) (s : State) :
    Reaches s (applyEntry target s.sig.t s) (s.entered target s.sig.t) :=
  (Reaches.refl s).andThen (applyEntry_actsAs target s.sig.t)

/-- Settles O31. -/
theorem applyIdleRendersAndDisables : Obligations.ApplyIdleRendersAndDisables := by
  unfold Obligations.ApplyIdleRendersAndDisables
  intro s
  exact (applyEntry_reaches .idle s).completesAs (exec_applyIdle s)

/-- Settles O32. -/
theorem applyHoldRendersAndEnergizes : Obligations.ApplyHoldRendersAndEnergizes := by
  unfold Obligations.ApplyHoldRendersAndEnergizes
  intro s
  exact (applyEntry_reaches .hold s).completesAs (exec_applyHold s)

/-- Settles O33. -/
theorem applyRunArmsTheDeadline : Obligations.ApplyRunArmsTheDeadline := by
  unfold Obligations.ApplyRunArmsTheDeadline
  intro s
  exact (applyEntry_reaches .run s).completesAs (exec_applyRun s)

/-! ## The redraw row (R177) -/

theorem exec_runRedraw (t : Time) (s : State) : exec (.runRedraw t) s = .next (redrawRun t s) := rfl

theorem redrawRun_reaches (t : Time) (s : State) : Reaches s (redrawRun t s) (s.redrawn t) :=
  (Reaches.refl s).andThen (redrawRun_actsAs t)

theorem redrawn_run {s : State} (h : s.driveState = .run) (t : Time) : s.redrawn t =
    ({ s with sig := { s.sig with rem := s.runDeadline - t } } : State).counting (s.runDeadline - t) := by
  rw [State.redrawn, latchRemain_run h]

theorem redrawn_notRun {s : State} (h : s.driveState ≠ .run) (t : Time) : s.redrawn t =
    ({ s with sig := { s.sig with rem := Config.freeRemain s.draws }, draws := s.draws + 1 } : State).counting
      (Config.freeRemain s.draws) := by
  rw [State.redrawn, latchRemain_notRun h]

/-- Settles O34. In Run the remaining time is what is left to the deadline, elsewhere it is drawn; either way it is
latched and its countdown rendered. -/
theorem redrawRendersTheRemainingTime : Obligations.RedrawRendersTheRemainingTime := by
  unfold Obligations.RedrawRendersTheRemainingTime
  constructor
  · intro s t hrun
    have hreach := redrawRun_reaches t s
    rw [redrawn_run hrun] at hreach
    exact ⟨_, exec_countdown_eq _ s, hreach.completesAs (exec_runRedraw t s)⟩
  · intro s t hrun
    have hreach := redrawRun_reaches t s
    rw [redrawn_notRun hrun] at hreach
    have hremain := (exec_remain t s).trans (congrArg _ (latchRemain_notRun hrun t))
    exact ⟨_, _, hremain, exec_countdown_eq _ _, hreach.completesAs (exec_runRedraw t s)⟩

/-! ## The transition rows (R166 to R173): the chains of steps 6 to 8 of a cycle -/

theorem exec_tInitIdle (sel : BitVec 4) (s : State) :
    exec (.tInitIdle sel) s = .next (endCycle (changeState .idle s.sig.t s)) := rfl

theorem exec_tIdleStay (sel : BitVec 4) (s : State) : exec (.tIdleStay sel) s = .next (endCycle s) := rfl

theorem exec_tIdleHold (sel : BitVec 4) (s : State) :
    exec (.tIdleHold sel) s = .next (endCycle (changeState .hold s.sig.t s)) := rfl

theorem exec_tHoldStay (sel : BitVec 4) (s : State) : exec (.tHoldStay sel) s = .next (endCycle s) := rfl

theorem exec_tHoldRun (sel : BitVec 4) (s : State) :
    exec (.tHoldRun sel) s = .next (endCycle (changeState .run s.sig.t s)) := rfl

theorem exec_tRunStay (sel : BitVec 4) (s : State) :
    exec (.tRunStay sel) s = .next (endCycle (redrawRun s.sig.t s)) := rfl

theorem exec_tRunIdleExp (sel : BitVec 4) (s : State) :
    exec (.tRunIdleExp sel) s = .next (endCycle (changeState .idle s.sig.t s)) := rfl

theorem exec_tRunIdleBtn (sel : BitVec 4) (s : State) :
    exec (.tRunIdleBtn sel) s = .next (endCycle (changeState .idle s.sig.t s)) := rfl

theorem changeRow_reaches (target : DriveState) (s : State) : Reaches s
    (endCycle (changeState target s.sig.t s)) (s.changed target s.sig.t).keepingButton :=
  ((Reaches.refl s).andThen (changeState_actsAs target s.sig.t)).andThen endCycle_actsAs

theorem stayRow_reaches (s : State) : Reaches s (endCycle s) s.keepingButton :=
  (Reaches.refl s).andThen endCycle_actsAs

theorem redrawRow_reaches (s : State) : Reaches s
    (endCycle (redrawRun s.sig.t s)) (s.redrawn s.sig.t).keepingButton :=
  (redrawRun_reaches s.sig.t s).andThen endCycle_actsAs

/-- Settles O35. The three rows are one operation. -/
theorem rowsToIdleStopTheDrive : Obligations.RowsToIdleStopTheDrive := by
  unfold Obligations.RowsToIdleStopTheDrive
  intro s i sel hi
  have hexec : exec i s = .next (endCycle (changeState .idle s.sig.t s)) := by
    simp only [List.mem_cons, List.not_mem_nil, or_false] at hi
    rcases hi with rfl | rfl | rfl
    · exact exec_tInitIdle sel s
    · exact exec_tRunIdleExp sel s
    · exact exec_tRunIdleBtn sel s
  exact (changeRow_reaches .idle s).completesAs hexec

/-- Settles O36. -/
theorem stayRowsKeepOnlyTheButton : Obligations.StayRowsKeepOnlyTheButton := by
  unfold Obligations.StayRowsKeepOnlyTheButton
  intro s i sel hi
  have hexec : exec i s = .next (endCycle s) := by
    simp only [List.mem_cons, List.not_mem_nil, or_false] at hi
    rcases hi with rfl | rfl
    · exact exec_tIdleStay sel s
    · exact exec_tHoldStay sel s
  exact (stayRow_reaches s).completesAs hexec

/-- Settles O37. -/
theorem idleHoldRowEnergizes : Obligations.IdleHoldRowEnergizes := by
  unfold Obligations.IdleHoldRowEnergizes
  intro s sel
  exact (changeRow_reaches .hold s).completesAs (exec_tIdleHold sel s)

/-- Settles O38. -/
theorem holdRunRowStartsTheRun : Obligations.HoldRunRowStartsTheRun := by
  unfold Obligations.HoldRunRowStartsTheRun
  intro s sel
  exact (changeRow_reaches .run s).completesAs (exec_tHoldRun sel s)

/-- The redraw latches nothing but the remaining time, and no flag, no deadline and no state. -/
theorem redrawRun_keeps (t : Time) (s : State) :
    (redrawRun t s).sig.cur = s.sig.cur ∧ (redrawRun t s).motorEn = s.motorEn ∧
    (redrawRun t s).steppingEn = s.steppingEn ∧ (redrawRun t s).runDeadline = s.runDeadline ∧
    (redrawRun t s).driveState = s.driveState := by
  simp only [redrawRun, renderCountdown_sig, renderCountdown_motorEn, renderCountdown_steppingEn,
    renderCountdown_runDeadline, renderCountdown_driveState]
  unfold latchRemain
  split <;> exact ⟨rfl, rfl, rfl, rfl, rfl⟩

/-- Settles O39. In Run the chain redraws what is left to the deadline; in every state it is the redraw and then the
button, and neither writes a flag. -/
theorem runStayRowRedraws : Obligations.RunStayRowRedraws := by
  unfold Obligations.RunStayRowRedraws
  constructor
  · intro s sel hrun
    have hreach := redrawRow_reaches s
    rw [redrawn_run hrun] at hreach
    exact ⟨_, exec_countdown_eq _ s, hreach.completesAs (exec_tRunStay sel s)⟩
  · intro s sel
    obtain ⟨hcur, hmotor, hstep, hdeadline, hst⟩ := redrawRun_keeps s.sig.t s
    have hframe := endCycle_frame (redrawRun s.sig.t s)
    have hexact : s.gaps = [] → endCycle (redrawRun s.sig.t s) =
        { redrawRun s.sig.t s with prevBtn := (redrawRun s.sig.t s).sig.cur } := fun hg => by
      refine endCycle_noGaps ?_
      rw [(redrawRun_reaches s.sig.t s).noGaps hg, (redrawRun_reaches s.sig.t s).gaps, hg]
    rw [hcur] at hframe hexact
    refine ⟨_, _, exec_runRedraw s.sig.t s, exec_tRunStay sel s, hframe, hexact, ?_⟩
    rw [hframe]
    exact ⟨hmotor, hstep, hdeadline, hst⟩

end Sys2Proof.Machine
end

section
/-! Whole cycles (44_state_machine.md R186): a cycle is its selector's row, and what it keeps, computed by the three
branches that `runCycle_change`, `runCycle_stay` and `runCycle_redraw` give. -/

namespace Sys2Proof.Machine

theorem decode_sel4 (sel : BitVec 4) : decode (.sel4 sel) = .ok (decodeSel4 sel) := rfl

/-- Steps 6 to 8 are the row of the selector, where the next state has been computed from it (R165, R186). -/
theorem exec_selectedRow {s : State} (hnext : s.sig.next = nextOf s.driveState s.sig.edge s.sig.exp) :
    exec (decodeSel4 (selectorOf s)) s = .next (endCycle (actCycle s)) := by
  unfold selectorOf actCycle
  rw [hnext]
  cases s.driveState with
  | init => cases s.sig.edge <;> cases s.sig.exp <;> rfl
  | idle => cases s.sig.edge <;> cases s.sig.exp <;> rfl
  | hold => cases s.sig.edge <;> cases s.sig.exp <;> rfl
  | run => cases s.sig.edge <;> cases s.sig.exp <;> rfl

theorem senseCycle_next (b : Bit) (s : State) : (senseCycle b s).sig.next =
    nextOf (senseCycle b s).driveState (senseCycle b s).sig.edge (senseCycle b s).sig.exp := by
  rw [senseCycle_sig, senseCycle_driveState]
  rfl

/-- Settles O40. -/
theorem cyclePerformsItsSelectorsRow : Obligations.CyclePerformsItsSelectorsRow := by
  unfold Obligations.CyclePerformsItsSelectorsRow
  intro s b
  exact ⟨_, _, decode_sel4 _, (encode_decodeSel4 _).1, exec_selectedRow (senseCycle_next b s), exec_cycle b s⟩

/-- What steps 6 and 7 leave. -/
def State.acted (s : State) : State :=
  if s.sig.next ≠ s.driveState then s.changed s.sig.next s.sig.t
  else if s.driveState = .run then s.redrawn s.sig.t
  else s

theorem acted_change {s : State} (h : s.sig.next ≠ s.driveState) : s.acted = s.changed s.sig.next s.sig.t := if_pos h

theorem acted_redraw {s : State} (h : s.sig.next = s.driveState) (hrun : s.driveState = .run) :
    s.acted = s.redrawn s.sig.t := by
  rw [State.acted, if_neg (not_not.mpr h), if_pos hrun]

theorem acted_stay {s : State} (h : s.sig.next = s.driveState) (hrun : s.driveState ≠ .run) : s.acted = s := by
  rw [State.acted, if_neg (not_not.mpr h), if_neg hrun]

theorem acted_gaps (s : State) : s.acted.gaps = s.gaps := by
  unfold State.acted
  split
  · exact (changeState_actsAs _ _).gaps s
  · split
    · exact (redrawRun_actsAs _).gaps s
    · rfl

theorem actCycle_actsAs : ActsAs actCycle State.acted where
  frame s := by
    unfold actCycle State.acted
    split
    · exact (changeState_actsAs _ _).frame s
    · split
      · exact (redrawRun_actsAs _).frame s
      · exact sameButPreempted_refl s
  noGaps s hg := by
    unfold actCycle State.acted
    split
    · exact (changeState_actsAs _ _).noGaps s hg
    · split
      · exact (redrawRun_actsAs _).noGaps s hg
      · rfl
  congr s t h := by
    have hsig : s.sig = t.sig := by rw [h]
    have hst : s.driveState = t.driveState := by rw [h]
    unfold State.acted
    rw [hsig, hst]
    split
    · exact (changeState_actsAs _ _).congr s t h
    · split
      · exact (redrawRun_actsAs _).congr s t h
      · exact h
  gaps := acted_gaps

/-- What a whole cycle leaves. -/
def State.cycled (b : Bit) (s : State) : State := discardSignals (s.sensing b).acted.keepingButton

theorem runCycle_reaches (b : Bit) (s : State) : Reaches s (runCycle b s) (s.cycled b) :=
  (((senseCycle_reaches b s).andThen actCycle_actsAs).andThen endCycle_actsAs).andThen discardSignals_actsAs

theorem cycled_redraw {b : Bit} {s : State} (hnext : (sensed b s).next = s.driveState) (hrun : s.driveState = .run) :
    s.cycled b = discardSignals ((s.sensing b).redrawn (sampleTime s)).keepingButton := by
  rw [State.cycled, acted_redraw (s := s.sensing b) hnext hrun]
  rfl

theorem cycled_stay {b : Bit} {s : State} (hnext : (sensed b s).next = s.driveState) (hrun : s.driveState ≠ .run) :
    s.cycled b = discardSignals (s.sensing b).keepingButton := by
  rw [State.cycled, acted_stay (s := s.sensing b) hnext hrun]

theorem cycled_change {b : Bit} {s : State} (hnext : (sensed b s).next ≠ s.driveState) :
    s.cycled b = discardSignals ((s.sensing b).changed (sensed b s).next (sampleTime s)).keepingButton := by
  rw [State.cycled, acted_change (s := s.sensing b) hnext]
  rfl

theorem deadlineReached_eq_false_iff (t deadline : Time) :
    deadlineReached t deadline = false ↔ t.toNat < deadline.toNat := by
  rw [Bool.eq_false_iff, ne_eq, deadlineReached_eq_true_iff, not_le]

/-- Settles O45. With neither flag set `NEXT` of Run is Run, so the cycle redraws. -/
theorem runBeforeTheDeadlineRedraws : Obligations.RunBeforeTheDeadlineRedraws := by
  unfold Obligations.RunBeforeTheDeadlineRedraws
  rintro s b t hrun hedge rfl hbefore
  have hexp : deadlineReached (sampleTime s) s.runDeadline = false := (deadlineReached_eq_false_iff _ _).mpr hbefore
  have hnext : (sensed b s).next = s.driveState := by
    rw [sensed_next hrun, pressEdge_false hedge, hexp, hrun]
    rfl
  have hreach := runCycle_reaches b s
  rw [cycled_redraw hnext hrun, redrawn_run (s := s.sensing b) hrun] at hreach
  exact ⟨_, exec_countdown_eq _ s, hreach.completesAs_cycle⟩

/-! ## What a cycle keeps -/

/-- Settles O47. A cycle that ends where it began took no change of state. -/
theorem steadyCycleWritesNoFlag : Obligations.SteadyCycleWritesNoFlag := by
  unfold Obligations.SteadyCycleWritesNoFlag
  intro s t b ht hsame
  obtain rfl : runCycle b s = t := Host.Outcome.next.inj ht
  rw [runCycle_driveState] at hsame
  rw [(runCycle_reaches b s).frame]
  by_cases hrun : s.driveState = .run
  · rw [cycled_redraw hsame hrun, redrawn_run (s := s.sensing b) hrun]
    exact ⟨rfl, rfl, rfl⟩
  · rw [cycled_stay hsame hrun]
    exact ⟨rfl, rfl, rfl⟩

/-- Settles O48. A cycle ends in what `NEXT` answers for its press-edge. -/
theorem oneStepPerPress : Obligations.OneStepPerPress := by
  unfold Obligations.OneStepPerPress
  intro s t b ht
  obtain rfl : runCycle b s = t := Host.Outcome.next.inj ht
  rw [runCycle_driveState, sensed_next rfl]
  constructor
  · intro hedge hinit
    rw [pressEdge_true hedge]
    cases hst : s.driveState with
    | init => exact absurd hst hinit
    | idle => exact .inl ⟨rfl, rfl⟩
    | hold => exact .inr (.inl ⟨rfl, rfl⟩)
    | run => exact .inr (.inr ⟨rfl, rfl⟩)
  · intro hedge
    rw [pressEdge_false hedge]
    cases hst : s.driveState with
    | init => exact .inr ⟨.inl rfl, rfl⟩
    | idle => exact .inl rfl
    | hold => exact .inl rfl
    | run =>
      cases hexp : deadlineReached (sampleTime s) s.runDeadline with
      | true => exact .inr ⟨.inr rfl, rfl⟩
      | false => exact .inl rfl

/-- The registers and counters that steps 6 and 7 leave alone, the sampled level among them. -/
theorem acted_keeps (s : State) :
    (s.acted.factor = s.factor ∧ s.acted.stepIntervalUs = s.stepIntervalUs ∧ s.acted.dir = s.dir ∧
      s.acted.queue = s.queue ∧ s.acted.sig.cur = s.sig.cur) ∧
    s.acted.rawMs = s.rawMs ∧ s.acted.stepPin = s.stepPin ∧ s.acted.pulsing = s.pulsing ∧
      s.acted.stepCount = s.stepCount ∧ s.acted.pastHorizon = s.pastHorizon := by
  by_cases hnext : s.sig.next = s.driveState
  · by_cases hrun : s.driveState = .run
    · rw [acted_redraw hnext hrun, redrawn_run hrun]
      exact ⟨⟨rfl, rfl, rfl, rfl, rfl⟩, rfl, rfl, rfl, rfl, rfl⟩
    · rw [acted_stay hnext hrun]
      exact ⟨⟨rfl, rfl, rfl, rfl, rfl⟩, rfl, rfl, rfl, rfl, rfl⟩
  · rw [acted_change hnext]
    cases s.sig.next <;> exact ⟨⟨rfl, rfl, rfl, rfl, rfl⟩, rfl, rfl, rfl, rfl, rfl⟩

/-- Settles O49. -/
theorem cycleWritesOnlyItsOwnRegisters : Obligations.CycleWritesOnlyItsOwnRegisters := by
  unfold Obligations.CycleWritesOnlyItsOwnRegisters
  intro s t b ht
  obtain rfl : runCycle b s = t := Host.Outcome.next.inj ht
  have hreach := runCycle_reaches b s
  obtain ⟨⟨hfactor, hinterval, hdir, hqueue, hcur⟩, hclock⟩ := acted_keeps (s.sensing b)
  have hstate : (runCycle b s).driveState ≠ .init := by
    rw [runCycle_driveState]
    exact nextOf_ne_init _ _ _
  have hclock' : s.gaps = [] → (runCycle b s).rawMs = s.rawMs ∧ (runCycle b s).stepPin = s.stepPin ∧
      (runCycle b s).pulsing = s.pulsing ∧ (runCycle b s).stepCount = s.stepCount ∧
      (runCycle b s).pastHorizon = s.pastHorizon := fun hg => by
    rw [hreach.noGaps hg]
    exact hclock
  refine ⟨?_, ?_, ?_, ?_, hstate, ?_, hclock'⟩
  · rw [hreach.frame]
    exact hfactor
  · rw [hreach.frame]
    exact hinterval
  · rw [hreach.frame]
    exact hdir
  · rw [hreach.frame]
    exact hqueue
  · rw [hreach.frame]
    exact hcur

end Sys2Proof.Machine
end

section
/-! Stale signals (10_state.md R36). The operations of a cycle either write signals only or commute with discarding
them, so a cycle on two states that differ in the signals only ends in the same state once they are discarded. -/

namespace Sys2Proof.Machine

/-! ## Operations that read no signal -/

theorem runPreempt_discardSignals (s : State) (e : Preempt) :
    runPreempt (discardSignals s) e = discardSignals (runPreempt s e) := by
  cases e with
  | tick => rfl
  | fire =>
    show firePulse (discardSignals s) = discardSignals (firePulse s)
    unfold firePulse
    rw [discardSignals_steppingEn]
    split <;> rfl

theorem foldl_runPreempt_discardSignals (g : List Preempt) (s : State) :
    g.foldl runPreempt (discardSignals s) = discardSignals (g.foldl runPreempt s) := by
  induction g generalizing s with
  | nil => rfl
  | cons e g ih => rw [List.foldl_cons, runPreempt_discardSignals, ih, List.foldl_cons]

theorem preemptPoint_discardSignals (s : State) :
    preemptPoint (discardSignals s) = discardSignals (preemptPoint s) := by
  unfold preemptPoint
  rw [discardSignals_gaps]
  split
  · rfl
  · exact foldl_runPreempt_discardSignals _ { s with gaps := _ }

theorem renderPattern_discardSignals (p : Pattern) (s : State) :
    renderPattern p (discardSignals s) = discardSignals (renderPattern p s) := by
  have hrequest : preemptPoint (requestPattern p (discardSignals s)) =
      discardSignals (preemptPoint (requestPattern p s)) := preemptPoint_discardSignals (requestPattern p s)
  have hwrite (q : Pattern) (u : State) : preemptPoint (dispWrite q (discardSignals u)) =
      discardSignals (preemptPoint (dispWrite q u)) := preemptPoint_discardSignals (dispWrite q u)
  unfold renderPattern
  simp only [hrequest, discardSignals_disp, discardSignals_last, hwrite]
  split <;> rfl

theorem renderCountdown_discardSignals (d : Time) (s : State) :
    renderCountdown d (discardSignals s) = discardSignals (renderCountdown d s) := by
  have hdraw : countDraw d (discardSignals s) = discardSignals (countDraw d s) := by
    unfold countDraw
    split <;> rfl
  unfold renderCountdown
  rw [hdraw]
  exact renderPattern_discardSignals _ _

theorem applyEntry_discardSignals (target : DriveState) (t : Time) (s : State) :
    applyEntry target t (discardSignals s) = discardSignals (applyEntry target t s) := by
  have hmotor (v : Bool) (u : State) : setMotorEn v (discardSignals u) = discardSignals (setMotorEn v u) := rfl
  have hflag (v : Bool) (u : State) : setSteppingEn v (discardSignals u) = discardSignals (setSteppingEn v u) := rfl
  have harm (d : Time) (u : State) : armDeadline d (discardSignals u) = discardSignals (armDeadline d u) := rfl
  cases target with
  | init => rfl
  | idle =>
    simp only [applyEntry, enterIdle, renderPattern_discardSignals, preemptPoint_discardSignals, hmotor, hflag]
  | hold =>
    simp only [applyEntry, enterHold, renderPattern_discardSignals, preemptPoint_discardSignals, hmotor, hflag]
  | run =>
    simp only [applyEntry, enterRun, renderCountdown_discardSignals, preemptPoint_discardSignals, hmotor, hflag, harm]

theorem changeState_discardSignals (target : DriveState) (t : Time) (s : State) :
    changeState target t (discardSignals s) = discardSignals (changeState target t s) := by
  unfold changeState
  rw [applyEntry_discardSignals, preemptPoint_discardSignals]
  rfl

/-! ## Operations that write signals -/

/-- In Run the redraw reads the deadline and its operand; the remaining time it latches is a signal. -/
theorem discardSignals_redrawRun {s : State} (hrun : s.driveState = .run) (t : Time) :
    discardSignals (redrawRun t s) = renderCountdown (s.runDeadline - t) (discardSignals s) := by
  unfold redrawRun
  rw [latchRemain_run hrun]
  exact (renderCountdown_discardSignals _ _).symm

theorem discardSignals_actCycle {s u : State} (hsame : discardSignals s = discardSignals u)
    (hnext : s.sig.next = u.sig.next) (ht : s.sig.t = u.sig.t) :
    discardSignals (actCycle s) = discardSignals (actCycle u) := by
  have hst : s.driveState = u.driveState := by simpa using congrArg State.driveState hsame
  have hdeadline : s.runDeadline = u.runDeadline := by simpa using congrArg State.runDeadline hsame
  unfold actCycle
  rw [hnext, ht, hst]
  split
  · rw [← changeState_discardSignals, hsame, changeState_discardSignals]
  · split
    · next hrun =>
      rw [discardSignals_redrawRun (hst.trans hrun), discardSignals_redrawRun hrun, hsame, hdeadline]
    · exact hsame

theorem discardSignals_endCycle {s u : State} (hsame : discardSignals s = discardSignals u)
    (hcur : s.sig.cur = u.sig.cur) : discardSignals (endCycle s) = discardSignals (endCycle u) := by
  have hkeep (v : State) : discardSignals (endCycle v) =
      { preemptPoint (discardSignals v) with prevBtn := v.sig.cur } := by
    rw [preemptPoint_discardSignals]
    unfold endCycle keepButton
    rw [preemptPoint_sig]
    rfl
  rw [hkeep, hkeep, hsame, hcur]

/-- What sensing leaves but for the signals: the pin read, and five gaps. -/
theorem discardSignals_senseCycle (b : Bit) (s : State) : discardSignals (senseCycle b s) =
    preemptPoint (preemptPoint (preemptPoint (preemptPoint (preemptPoint
      (note (.pinRead b) (presentButton b (discardSignals s))))))) := by
  have hsample (u : State) : discardSignals (samplePin (presentButton b u)) =
      note (.pinRead b) (presentButton b (discardSignals u)) := rfl
  have hedge (c : Bit) (u : State) : discardSignals (latchEdge c u) = discardSignals u := rfl
  have htime (u : State) : discardSignals (latchTime u) = discardSignals u := rfl
  have hexp (t : Time) (u : State) : discardSignals (latchExpired t u) = discardSignals u := rfl
  have hnext (sel : BitVec 4) (u : State) : discardSignals (latchNext sel u) = discardSignals u := rfl
  simp only [senseCycle, ← preemptPoint_discardSignals, hsample, hedge, htime, hexp, hnext]

theorem actCycle_cur (s : State) : (actCycle s).sig.cur = s.sig.cur := by
  obtain ⟨⟨-, -, -, -, hcur⟩, -⟩ := acted_keeps s
  rw [actCycle_actsAs.frame s]
  exact hcur

/-- Settles O50. The signals that steps 6 to 8 read are latched by this cycle's sensing, which does not read them. -/
theorem cycleIgnoresStaleSignals : Obligations.CycleIgnoresStaleSignals := by
  unfold Obligations.CycleIgnoresStaleSignals
  intro s x b
  have hsensed : discardSignals (senseCycle b { s with sig := x }) = discardSignals (senseCycle b s) := by
    rw [discardSignals_senseCycle, discardSignals_senseCycle]
    rfl
  have hacted : discardSignals (actCycle (senseCycle b { s with sig := x })) =
      discardSignals (actCycle (senseCycle b s)) :=
    discardSignals_actCycle hsensed (by rw [senseCycle_sig, senseCycle_sig]; rfl)
      (by rw [senseCycle_sig, senseCycle_sig]; rfl)
  have hended : runCycle b { s with sig := x } = runCycle b s :=
    discardSignals_endCycle hacted (by rw [actCycle_cur, actCycle_cur, senseCycle_sig, senseCycle_sig]; rfl)
  rw [exec_cycle, exec_cycle, hended]

end Sys2Proof.Machine
end

section
/-! Firings inside a cycle (20_memory.md R62). A gap with no firing in it, or any gap while stepping is disabled, emits
nothing; one firing while it is enabled emits one pulse. `Emits` counts the gaps used up and the pulses, and collects
the calls made since the cycle began. -/

namespace Sys2Proof.Machine

/-- From `s` to `t` the operations have used `n` gaps, counted `k` pulses and made the calls `l`. -/
structure Emits (n k : Nat) (l : List IfaceEvent) (s t : State) : Prop where
  history : t.history = l ++ s.history
  stepCount : t.stepCount = s.stepCount + k
  gaps : t.gaps = s.gaps.drop n

/-- No pulse can come out of gap `n` while `STEPPING_EN` is what it is. -/
def State.silentAt (s : State) (n : Nat) : Prop := s.steppingEn = false ∨ Preempt.fire ∉ s.gaps.getD n []

theorem Emits.refl (s : State) : Emits 0 0 [] s s := ⟨rfl, rfl, rfl⟩

/-- An operation without a gap makes one call. -/
theorem Emits.call {n k : Nat} {l : List IfaceEvent} {s t u : State} (h : Emits n k l s t) {e : IfaceEvent}
    (hhistory : u.history = e :: t.history) (hcount : u.stepCount = t.stepCount) (hgaps : u.gaps = t.gaps) :
    Emits n k (e :: l) s u :=
  ⟨by rw [hhistory, h.history]; rfl, hcount.trans h.stepCount, hgaps.trans h.gaps⟩

/-- An operation without a gap makes no call. -/
theorem Emits.quiet {n k : Nat} {l : List IfaceEvent} {s t u : State} (h : Emits n k l s t)
    (hhistory : u.history = t.history) (hcount : u.stepCount = t.stepCount) (hgaps : u.gaps = t.gaps) :
    Emits n k l s u :=
  ⟨hhistory.trans h.history, hcount.trans h.stepCount, hgaps.trans h.gaps⟩

/-! ## Gaps -/

theorem firePulse_disabled {s : State} (h : s.steppingEn = false) : firePulse s = s := by
  unfold firePulse
  rw [h]
  rfl

theorem firePulse_enabled {s : State} (h : s.steppingEn = true) : firePulse s = deassertStep (assertStep s) := by
  unfold firePulse
  rw [h]
  rfl

theorem preemptPoint_eq_foldl (s : State) :
    preemptPoint s = (s.gaps.headD []).foldl runPreempt { s with gaps := s.gaps.tail } := by
  unfold preemptPoint
  split
  · next hg => ext1 <;> simp [hg]
  · next hg => rw [hg]; rfl

theorem foldl_runPreempt_silent {g : List Preempt} {s : State} (h : s.steppingEn = false ∨ Preempt.fire ∉ g) :
    (g.foldl runPreempt s).history = s.history ∧ (g.foldl runPreempt s).stepCount = s.stepCount := by
  induction g generalizing s with
  | nil => exact ⟨rfl, rfl⟩
  | cons e g ih =>
    cases e with
    | tick => exact ih (s := tickOnce s) (h.imp_right fun hg hmem => hg (List.mem_cons_of_mem _ hmem))
    | fire =>
      have hoff : s.steppingEn = false := h.resolve_right fun hg => hg List.mem_cons_self
      rw [List.foldl_cons, runPreempt, firePulse_disabled hoff]
      exact ih (.inl hoff)

theorem Emits.headD_gaps {n k : Nat} {l : List IfaceEvent} {s t : State} (h : Emits n k l s t) :
    t.gaps.headD [] = s.gaps.getD n [] := by
  rw [h.gaps, List.headD_eq_head?_getD, List.head?_drop, List.getD_eq_getElem?_getD]

theorem Emits.gaps_preemptPoint {n k : Nat} {l : List IfaceEvent} {s t : State} (h : Emits n k l s t) :
    (preemptPoint t).gaps = s.gaps.drop (n + 1) := by
  rw [preemptPoint_gaps, h.gaps, List.tail_drop]

/-- A gap out of which no pulse can come. -/
theorem Emits.silentGap {n k : Nat} {l : List IfaceEvent} {s t : State} (h : Emits n k l s t)
    (hsilent : t.steppingEn = false ∨ Preempt.fire ∉ s.gaps.getD n []) : Emits (n + 1) k l s (preemptPoint t) := by
  rw [← h.headD_gaps] at hsilent
  have hkept := foldl_runPreempt_silent (s := { t with gaps := t.gaps.tail }) hsilent
  rw [← preemptPoint_eq_foldl] at hkept
  exact ⟨hkept.1.trans h.history, hkept.2.trans h.stepCount, h.gaps_preemptPoint⟩

/-- A gap with one firing in it, while stepping is enabled. -/
theorem Emits.fireGap {n k : Nat} {l : List IfaceEvent} {s t : State} (h : Emits n k l s t) (hon : t.steppingEn = true)
    (hfire : s.gaps.getD n [] = [.fire]) :
    Emits (n + 1) (k + 1) (.pinWrite .step 0 :: .pinWrite .step 1 :: l) s (preemptPoint t) := by
  have hpulse : preemptPoint t = deassertStep (assertStep { t with gaps := t.gaps.tail }) := by
    rw [preemptPoint_eq_foldl, h.headD_gaps, hfire]
    exact firePulse_enabled (s := { t with gaps := t.gaps.tail }) hon
  refine ⟨?_, ?_, h.gaps_preemptPoint⟩
  · rw [hpulse, deassertStep_history, assertStep_history, h.history]
    rfl
  · rw [hpulse, deassertStep_stepCount, assertStep_stepCount, h.stepCount, Nat.add_assoc]

/-! ## The parts of a cycle -/

theorem senseCycle_emits (b : Bit) {s : State} (hs : ∀ n < 5, s.silentAt n) :
    Emits 5 0 [.pinRead b] s (senseCycle b s) := by
  have hsample : Emits 0 0 [.pinRead b] s (samplePin (presentButton b s)) := (Emits.refl s).call rfl rfl rfl
  have hgap {n : Nat} {t : State} (hn : n < 5) (h : Emits n 0 [.pinRead b] s t) (ht : t.steppingEn = s.steppingEn) :
      Emits (n + 1) 0 [.pinRead b] s (preemptPoint t) := h.silentGap ((hs n hn).imp_left ht.trans)
  have hedge {n : Nat} {t : State} (h : Emits n 0 [.pinRead b] s t) :
      Emits n 0 [.pinRead b] s (latchEdge t.sig.cur t) := h.quiet rfl rfl rfl
  have htime {n : Nat} {t : State} (h : Emits n 0 [.pinRead b] s t) :
      Emits n 0 [.pinRead b] s (latchTime t) := h.quiet rfl rfl rfl
  have hexp {n : Nat} {t : State} (h : Emits n 0 [.pinRead b] s t) :
      Emits n 0 [.pinRead b] s (latchExpired t.sig.t t) := h.quiet rfl rfl rfl
  have hnext {n : Nat} {t : State} (h : Emits n 0 [.pinRead b] s t) :
      Emits n 0 [.pinRead b] s (latchNext (selectorOf t) t) := h.quiet rfl rfl rfl
  have h1 := hgap (by decide) hsample (by simp)
  have h2 := hgap (by decide) (hedge h1) (by simp)
  have h3 := hgap (by decide) (htime h2) (by simp)
  have h4 := hgap (by decide) (hexp h3) (by simp)
  exact hgap (by decide) (hnext h4) (by simp)

theorem Emits.render {n k : Nat} {l : List IfaceEvent} {s t : State} {p : Pattern} (h : Emits n k l s t)
    (ht : t.steppingEn = s.steppingEn) (hs : s.silentAt n) (hs' : s.silentAt (n + 1)) (hne : p ≠ t.last) :
    Emits (n + 2) k (.dispWrite p :: l) s (renderPattern p t) := by
  have hrequest : Emits (n + 1) k l s (preemptPoint (requestPattern p t)) :=
    Emits.silentGap (h.quiet rfl rfl rfl) (hs.imp_left ht.trans)
  have hwrite : Emits (n + 2) k (.dispWrite p :: l) s
      (preemptPoint (dispWrite p (preemptPoint (requestPattern p t)))) :=
    Emits.silentGap (hrequest.call rfl rfl rfl) (hs'.imp_left (by simpa using ht.trans))
  unfold renderPattern
  simp only [preemptPoint_disp, preemptPoint_last, requestPattern_disp, requestPattern_last, if_pos hne]
  exact hwrite.quiet rfl rfl rfl

theorem Emits.motor {n k : Nat} {l : List IfaceEvent} {s t : State} (h : Emits n k l s t) (v : Bool) :
    Emits n k (.pinWrite .motorEnN (if v then 0 else 1) :: l) s (setMotorEn v t) := h.call rfl rfl rfl

theorem Emits.stepping {n k : Nat} {l : List IfaceEvent} {s t : State} (h : Emits n k l s t) (v : Bool) :
    Emits n k l s (setSteppingEn v t) := h.quiet rfl rfl rfl

theorem Emits.arm {n k : Nat} {l : List IfaceEvent} {s t : State} (h : Emits n k l s t) (d : Time) :
    Emits n k l s (armDeadline d t) := h.quiet rfl rfl rfl

theorem Emits.enter {n k : Nat} {l : List IfaceEvent} {s t : State} (h : Emits n k l s t) (st : DriveState) :
    Emits n k l s (setDriveState st t) := h.quiet rfl rfl rfl

theorem Emits.finish {n k : Nat} {l : List IfaceEvent} {s t : State} (h : Emits n k l s t) :
    Emits n k l s (discardSignals (keepButton t)) := h.quiet rfl rfl rfl

/-- Settles O51. The first seven gaps, up to the glyph, are empty; the next two have a firing each while stepping is
still enabled, and the last comes after it has been disabled. -/
theorem fireInsideTheStoppingCycle : Obligations.FireInsideTheStoppingCycle := by
  unfold Obligations.FireInsideTheStoppingCycle
  intro s hrun hon hprev hglyph hgaps
  have hnext : (sensed 0 s).next = .idle := by
    rw [sensed_next hrun, pressEdge_true ⟨hprev, rfl⟩]
    rfl
  have hgap (n : Nat) : s.gaps.getD n [] = [[], [], [], [], [], [], [], [.fire], [.fire], [.fire]].getD n [] := by
    rw [hgaps]
  have hsilent : ∀ n < 7, s.silentAt n := by
    intro n hn
    refine .inr ?_
    rw [hgap]
    revert n
    decide
  have hshown := (senseCycle_emits 0 fun n hn => hsilent n (by omega)).render (p := glyphIdle)
    (by rw [senseCycle_frame]) (hsilent 5 (by omega)) (hsilent 6 (by omega)) (by rw [senseCycle_frame]; exact hglyph)
  have hstepping : (senseCycle 0 s).steppingEn = true := by
    rw [senseCycle_frame]
    exact hon
  have hmotor := (hshown.fireGap (by simpa using hstepping) (hgap 7)).motor false
  have hstopped := ((hmotor.fireGap (by simpa using hstepping) (hgap 8)).stepping false).silentGap (.inl (by simp))
  have hend := ((hstopped.enter .idle).silentGap (.inl (by simp))).finish
  have hcycle := runCycle_change 0 s (by rw [hnext, hrun]; decide)
  rw [hnext] at hcycle
  refine ⟨runCycle 0 s, exec_cycle 0 s, ?_, ?_, ?_⟩
  · rw [hcycle]
    exact hend.stepCount
  · rw [runCycle_driveState, hnext]
  · rw [hcycle]
    exact hend.history

/-- Settles O52. Stepping is disabled in all nine gaps before `STEPPING_EN <- 1`, and no firing is placed later. -/
theorem noPulseBeforeSteppingIsEnabled : Obligations.NoPulseBeforeSteppingIsEnabled := by
  unfold Obligations.NoPulseBeforeSteppingIsEnabled
  intro s n hhold hoff hprev hlast hn hgaps
  have hnext : (sensed 0 s).next = .run := by
    rw [sensed_next hhold, pressEdge_true ⟨hprev, rfl⟩]
    rfl
  have hsilent (m : Nat) : s.silentAt m := .inl hoff
  have hempty (m : Nat) (hm : 9 ≤ m) : Preempt.fire ∉ s.gaps.getD m [] := by
    rw [hgaps, List.getD_eq_default _ _ (by rw [List.length_replicate]; omega)]
    exact List.not_mem_nil
  have hstepping : (senseCycle 0 s).steppingEn = false := by
    rw [senseCycle_frame]
    exact hoff
  have hshown := (senseCycle_emits 0 fun m _ => hsilent m).render (p := fullCountdown) (by rw [senseCycle_frame])
    (hsilent 5) (hsilent 6) (by rw [senseCycle_frame]; exact hlast.symm)
  have hmotor := ((hshown.silentGap (.inl (by simpa using hstepping))).motor true).silentGap
    (.inl (by simpa using hstepping))
  have harmed := ((hmotor.stepping true).silentGap (.inr (hempty 9 (by omega)))).arm (deadlineFrom (sampleTime s))
  have hend := (((harmed.silentGap (.inr (hempty 10 (by omega)))).enter .run).silentGap
    (.inr (hempty 11 (by omega)))).finish
  have hcycle := runCycle_change 0 s (by rw [hnext, hhold]; decide)
  rw [hnext, changeState, applyEntry, enterRun_eq] at hcycle
  refine ⟨runCycle 0 s, exec_cycle 0 s, ?_, ?_, ?_⟩
  · rw [runCycle_driveState, hnext]
  · rw [hcycle]
    exact hend.stepCount
  · rw [hcycle]
    exact hend.history

end Sys2Proof.Machine
end

section
/-! The boundary invariants (10_state.md R41, 44_state_machine.md R182, R183). They fall into a part that only the main
loop writes, which is read off what a cycle leaves, and a part about the clock and the step output, which is what
`ClockAdvances` keeps. They meet in Run: the deadline and the countdown shown come from the cycle's time sample, which
lies between the clock at its start and at its end. -/

namespace Sys2Proof.Machine

/-! ## The part only the main loop writes -/

/-- What the boundary invariants say of registers that no preempting agent writes. -/
structure State.LoopBoundary (s : State) : Prop where
  stepping : s.steppingFollows
  motor : s.motorFollows
  synced : s.displaySynced
  idle : s.driveState = .idle → s.last = glyphIdle
  hold : s.driveState = .hold → s.last = glyphHold
  legal : s.factorLegal

/-- What they say of a run: a countdown shows, and the deadline is at most a full run ahead. -/
def State.RunBoundary (s : State) : Prop :=
  s.driveState = .run → s.pastHorizon = false → isCountdown s.last = true ∧
    s.runDeadline.toNat ≤ s.rawMs.toNat * s.factor.toNat + Config.maxRunMs

theorem State.Boundary.loop {s : State} (h : s.Boundary) : s.LoopBoundary := by
  obtain ⟨hidle, hhold, -⟩ := h.tells
  exact ⟨h.stepping, h.motor, h.synced, hidle, hhold, h.legal⟩

theorem State.Boundary.run {s : State} (h : s.Boundary) : s.RunBoundary := by
  obtain ⟨-, -, hcountdown⟩ := h.tells
  exact fun hrun hmark => ⟨hcountdown hrun hmark, h.near hrun hmark⟩

theorem boundary_of_parts {s : State} (hloop : s.LoopBoundary) (hrun : s.RunBoundary) (hpulse : s.pulseIdle)
    (hmarked : s.horizonMarked) : s.Boundary where
  stepping := hloop.stepping
  motor := hloop.motor
  synced := hloop.synced
  tells := ⟨hloop.idle, hloop.hold, fun hst hmark => (hrun hst hmark).1⟩
  pulse := hpulse
  marked := hmarked
  legal := hloop.legal
  near hst hmark := (hrun hst hmark).2

theorem State.LoopBoundary.preempted {t u : State} (h : u.LoopBoundary) (hframe : t.sameButPreempted u) :
    t.LoopBoundary := by
  unfold State.sameButPreempted at hframe
  rw [hframe]
  exact ⟨h.stepping, h.motor, h.synced, h.idle, h.hold, h.legal⟩

theorem factor_pos {s : State} (h : s.factorLegal) : 1 ≤ s.factor.toNat := by
  rcases h with h | h
  · rw [h]
    decide
  · have hlow := accelFactor_bounds.1
    rw [h]
    omega

/-- The clock of an unmarked state has only advanced, so logical time has too. -/
theorem logicalTime_mono {s t : State} (hadv : ClockAdvances s t) (hmarked : s.horizonMarked) (hlegal : s.factorLegal)
    (hmark : t.pastHorizon = false) : s.rawMs.toNat * s.factor.toNat ≤ t.rawMs.toNat * t.factor.toNat := by
  rw [hadv.factor]
  exact Nat.mul_le_mul_right _ (hadv.forward hmarked hmark (factor_pos hlegal))

/-- Preemption keeps the invariants. -/
theorem State.Boundary.preempted {s t : State} (h : s.Boundary) (hframe : t.sameButPreempted s)
    (hadv : ClockAdvances s t) : t.Boundary := by
  have hst : t.driveState = s.driveState := by rw [hframe]
  have hlast : t.last = s.last := by rw [hframe]
  have hdeadline : t.runDeadline = s.runDeadline := by rw [hframe]
  refine boundary_of_parts (h.loop.preempted hframe) ?_ (hadv.pulse h.pulse) (hadv.marked h.marked)
  intro hrun hmark
  obtain ⟨hcountdown, hnear⟩ := h.run (hst ▸ hrun) (hadv.sticky hmark)
  have hmono := logicalTime_mono hadv h.marked h.legal hmark
  rw [hlast, hdeadline]
  exact ⟨hcountdown, by omega⟩

/-! ## What a cycle leaves of that part -/

/-- `RENDER` leaves `LAST` on the display, whether it writes or finds the pattern there. -/
theorem phys_after_render {p last phys : Pattern} (h : p = last → last = phys) : p = if p = last then phys else p := by
  split
  · next hp => exact hp.trans (h hp)
  · rfl

theorem glyphIdle_ne_blank : glyphIdle ≠ Config.blank := by
  obtain ⟨-, hblank, -⟩ := (glyphsLegal_iff _ _).mp glyphsLegal_inUse
  exact hblank

/-- From `Init`, where the display may still show anything, the only change of state is to Idle, whose glyph is not the
blank that `LAST` holds then (R136). -/
theorem changed_loopBoundary {s : State} (h : s.LoopBoundary) {target : DriveState} (t : Time) (hne : target ≠ .init)
    (hinit : s.driveState = .init → target = .idle) : (s.changed target t).LoopBoundary := by
  obtain ⟨-, hblank, hphys⟩ := h.synced
  have hshown (p : Pattern) (hp : s.driveState = .init → p = glyphIdle) :
      p = if p = s.last then s.phys else p := by
    refine phys_after_render fun heq => ?_
    by_cases hst : s.driveState = .init
    · exact absurd ((hp hst).symm.trans (heq.trans (hblank hst))) glyphIdle_ne_blank
    · exact hphys hst
  cases target with
  | init => exact absurd rfl hne
  | idle =>
    exact ⟨⟨nofun, nofun⟩, ⟨nofun, by rintro (hst | hst) <;> cases hst⟩,
      ⟨rfl, nofun, fun _ => hshown glyphIdle fun _ => rfl⟩, fun _ => rfl, nofun, h.legal⟩
  | hold =>
    exact ⟨⟨nofun, nofun⟩, ⟨fun _ => .inl rfl, fun _ => rfl⟩,
      ⟨rfl, nofun, fun _ => hshown glyphHold fun hst => by cases hinit hst⟩, nofun, fun _ => rfl, h.legal⟩
  | run =>
    exact ⟨⟨fun _ => rfl, fun _ => rfl⟩, ⟨fun _ => .inr rfl, fun _ => rfl⟩,
      ⟨rfl, nofun, fun _ => hshown fullCountdown fun hst => by cases hinit hst⟩, nofun, nofun, h.legal⟩

theorem redrawn_loopBoundary {s : State} (h : s.LoopBoundary) (hrun : s.driveState = .run) (t : Time) :
    (s.redrawn t).LoopBoundary := by
  obtain ⟨-, -, hsynced⟩ := h.synced
  have hphys : s.last = s.phys := hsynced (by simp [hrun])
  have hother {st : DriveState} (hne : st ≠ .run) (hst : s.driveState = st) : False := hne (hst.symm.trans hrun)
  rw [redrawn_run hrun]
  exact ⟨h.stepping, h.motor,
    ⟨rfl, fun hst => (hother (by decide) hst).elim, fun _ => phys_after_render fun _ => hphys⟩,
    fun hst => (hother (by decide) hst).elim, fun hst => (hother (by decide) hst).elim, h.legal⟩

theorem sensing_loopBoundary {s : State} (h : s.LoopBoundary) (b : Bit) : (s.sensing b).LoopBoundary :=
  ⟨h.stepping, h.motor, h.synced, h.idle, h.hold, h.legal⟩

theorem finishing_loopBoundary {s : State} (h : s.LoopBoundary) : (discardSignals s.keepingButton).LoopBoundary :=
  ⟨h.stepping, h.motor, h.synced, h.idle, h.hold, h.legal⟩

theorem cycled_loopBoundary {s : State} (h : s.LoopBoundary) (b : Bit) : (s.cycled b).LoopBoundary := by
  have hsensing := sensing_loopBoundary h b
  by_cases hnext : (sensed b s).next = s.driveState
  · by_cases hrun : s.driveState = .run
    · rw [cycled_redraw hnext hrun]
      exact finishing_loopBoundary (redrawn_loopBoundary hsensing hrun _)
    · rw [cycled_stay hnext hrun]
      exact finishing_loopBoundary hsensing
  · rw [cycled_change hnext]
    exact finishing_loopBoundary (changed_loopBoundary hsensing _ (nextOf_ne_init _ _ _) fun hst => sensed_next hst)

/-! ## The time sample and the run -/

/-- In a cycle that ends unmarked the sample does not wrap, and lies between the logical times of its start and end. -/
theorem sampleTime_between {s : State} (h : s.Boundary) (b : Bit) (hmark : (runCycle b s).pastHorizon = false) :
    s.rawMs.toNat * s.factor.toNat ≤ (sampleTime s).toNat ∧
    (sampleTime s).toNat ≤ (runCycle b s).rawMs.toNat * (runCycle b s).factor.toNat ∧
    (sampleTime s).toNat + 3000000 < 2 ^ 32 := by
  obtain ⟨m, hbefore, hsense, hsample⟩ := senseCycle_advances b s
  have hafter : ClockAdvances m (runCycle b s) :=
    (hsense.trans (actCycle_advances _)).trans (discardSignals_advances _)
  have hmarked := hbefore.marked h.marked
  have hlegal : m.factorLegal := by
    rw [State.factorLegal, hbefore.factor]
    exact h.legal
  have hmidMark := hafter.sticky hmark
  have hexact : (sampleTime s).toNat = m.rawMs.toNat * m.factor.toNat := by
    rw [hsample]
    exact logicalNow_of_horizon (hmarked hmidMark)
  rw [hexact]
  exact ⟨logicalTime_mono hbefore h.marked h.legal hmidMark, logicalTime_mono hafter hmarked hlegal hmark,
    (horizon_iff m).mp (hmarked hmidMark)⟩

theorem fullCountdown_eq_clockPattern : fullCountdown = clockPattern 3000 := by decide

theorem zeroCountdown_eq_clockPattern : zeroCountdown = clockPattern 0 := by decide

/-- What is left before the deadline of a run is shown as some seconds, from 1 to those of the full run. -/
theorem countdownAt_of_remaining {d : Time} (hpos : 0 < d.toNat) (hle : d.toNat ≤ 3000000) (s : State) :
    ∃ n, 0 < n ∧ n ≤ 3000 ∧ countdownAt d s = clockPattern n := by
  have hshown : shownSeconds d = (d.toNat + 999) / 1000 := if_neg (by omega)
  have hpattern : countdownAt d s = clockPattern (shownSeconds d) :=
    countdownOf_eq_clockPattern ((notInGap_iff d).mpr (.inl (by omega))) _
  refine ⟨shownSeconds d, ?_, ?_, hpattern⟩ <;> omega

/-- A cycle that ends in Run, unmarked, shows a countdown from `00:01` to `50:00` and leaves a deadline at most a full
run ahead. -/
theorem runCycle_shows {s : State} (h : s.Boundary) {b : Bit} (hrun : (runCycle b s).driveState = .run)
    (hmark : (runCycle b s).pastHorizon = false) :
    (∃ n, 0 < n ∧ n ≤ 3000 ∧ (runCycle b s).last = clockPattern n) ∧ (runCycle b s).runDeadline.toNat ≤
      (runCycle b s).rawMs.toNat * (runCycle b s).factor.toNat + 3000000 := by
  obtain ⟨hstart, hend, hfits⟩ := sampleTime_between h b hmark
  have hframe := (runCycle_reaches b s).frame
  have hlast : (runCycle b s).last = (s.cycled b).last := by rw [hframe]
  have hdeadline : (runCycle b s).runDeadline = (s.cycled b).runDeadline := by rw [hframe]
  rw [runCycle_driveState] at hrun
  rw [hlast, hdeadline]
  by_cases hst : s.driveState = .run
  · have hsame := hrun.trans hst.symm
    have hunmarked : s.pastHorizon = false := (runCycle_advances b s).sticky hmark
    have hnear : s.runDeadline.toNat ≤ s.rawMs.toNat * s.factor.toNat + 3000000 := h.near hst hunmarked
    have hbefore : (sampleTime s).toNat < s.runDeadline.toNat := by
      by_contra hreached
      have hexp := (deadlineReached_eq_true_iff (sampleTime s) s.runDeadline).mpr (by omega)
      have hidle : (sensed b s).next = .idle := (sensed_next hst).trans (nextOf_run_eq_idle (.inr hexp))
      cases hrun.symm.trans hidle
    have hremaining : (s.runDeadline - sampleTime s).toNat = s.runDeadline.toNat - (sampleTime s).toNat :=
      BitVec.toNat_sub_of_le (by rw [BitVec.le_def]; omega)
    rw [cycled_redraw hsame hst, redrawn_run (s := s.sensing b) hst]
    exact ⟨countdownAt_of_remaining (d := s.runDeadline - sampleTime s) (by omega) (by omega) _,
      show s.runDeadline.toNat ≤ _ by omega⟩
  · have hfull : (deadlineFrom (sampleTime s)).toNat = (sampleTime s).toNat + 3000000 := by
      rw [deadlineFrom, BitVec.toNat_add]
      exact Nat.mod_eq_of_lt hfits
    rw [cycled_change (by rw [hrun]; exact Ne.symm hst), hrun]
    exact ⟨⟨3000, by omega, le_refl _, fullCountdown_eq_clockPattern⟩,
      show (deadlineFrom (sampleTime s)).toNat ≤ _ by omega⟩

theorem runCycle_boundary {s : State} (h : s.Boundary) (b : Bit) : (runCycle b s).Boundary := by
  have hadv := runCycle_advances b s
  refine boundary_of_parts ((cycled_loopBoundary h.loop b).preempted (runCycle_reaches b s).frame) ?_
    (hadv.pulse h.pulse) (hadv.marked h.marked)
  intro hrun hmark
  obtain ⟨⟨n, -, hn, hlast⟩, hnear⟩ := runCycle_shows h hrun hmark
  exact ⟨hlast ▸ isCountdown_clockPattern (by omega), hnear⟩

/-- Settles O54. The pattern shown is that of at least one second, and patterns are injective. -/
theorem runNeverShowsZero : Obligations.RunNeverShowsZero := by
  unfold Obligations.RunNeverShowsZero
  intro s t b h ht hrun hmark
  obtain rfl : runCycle b s = t := Host.Outcome.next.inj ht
  obtain ⟨⟨n, hpos, hn, hlast⟩, -⟩ := runCycle_shows h hrun hmark
  rw [hlast, zeroCountdown_eq_clockPattern]
  refine ⟨fun hzero => ?_, isCountdown_clockPattern (by omega)⟩
  have := clockPattern_injective (by omega) (by omega) hzero
  omega

/-! ## Every step -/

theorem exec_event_boundary {i : Instr} {s t : State} (hi : i.isEvent = true) (h : s.Boundary)
    (ht : exec i s = .next t) : t.Boundary := by
  cases i <;> try cases hi
  case reset b => cases ht; exact powerOn_boundary b s
  case tick => cases ht; exact h.preempted (runPreempt_frame s .tick) (tickOnce_advances s)
  case cycle b => cases ht; exact runCycle_boundary h b
  case fire => cases ht; exact h.preempted (fireEvent_frame s) (fireEvent_advances s)

/-- Only the four events have stimulus words (R79). -/
theorem isEvent_of_encode {i : Instr} {w : BitVec 8} (h : encode i = some (.stim8 w)) : i.isEvent = true := by
  cases i with
  | reset b | tick | cycle b | fire => rfl
  | _ => cases h

/-- Fetching changes the environment's fields only, and takes a stimulus word from a queue of such words. -/
theorem fetch_boundary {s : State} (h : s.Boundary) (hq : s.eventsOnly) :
    (fetch s).2.Boundary ∧ (fetch s).2.eventsOnly ∧ ∃ w, (fetch s).1 = .stim8 w := by
  have hsame (draws : Nat) (queue : List Stimulus) (gaps : List (List Preempt)) :
      ({ s with draws := draws, queue := queue, gaps := gaps } : State).Boundary :=
    ⟨h.stepping, h.motor, h.synced, h.tells, h.pulse, h.marked, h.legal, h.near⟩
  have hkind (k : EnvKind) : ∃ w, k.code = .stim8 w := by cases k <;> exact ⟨_, rfl⟩
  cases hqueue : s.queue with
  | nil =>
    rw [fetch_drawn hqueue]
    refine ⟨hsame _ _ _, ?_, hkind _⟩
    intro it hit
    obtain ⟨e, -, rfl⟩ := List.mem_map.mp hit
    exact hkind e.kind
  | cons it rest =>
    rw [fetch_queued hqueue]
    rw [State.eventsOnly, hqueue] at hq
    exact ⟨hsame _ _ _, fun x hx => hq x (List.mem_cons_of_mem _ hx), hq it List.mem_cons_self⟩

/-- Settles O58. A step is a fetch, an event, and what is left in the gaps; each keeps the invariants. -/
theorem stepKeepsTheBoundaryInvariants : Obligations.StepKeepsTheBoundaryInvariants := by
  unfold Obligations.StepKeepsTheBoundaryInvariants
  intro s t h hq ht
  obtain ⟨hfetched, hqueue, w, hw⟩ := fetch_boundary h hq
  cases hdecode : decode (fetch s).1 with
  | error e =>
    rw [step_of_refuses hdecode] at ht
    cases ht
  | ok i =>
    have hi : i.isEvent = true := isEvent_of_encode ((encode_decode hdecode).2.trans (congrArg some hw))
    obtain ⟨u, hexec, hkept⟩ := exec_event_queue hi (fetch s).2
    rw [step_of_decode hdecode, hexec] at ht
    obtain rfl : drainGaps u = t := Host.Outcome.next.inj ht
    refine ⟨(exec_event_boundary hi hfetched hexec).preempted (drainGaps_frame u) (drainGaps_advances u), ?_⟩
    rw [State.eventsOnly, drainGaps_queue, hkept]
    exact hqueue

end Sys2Proof.Machine
end

section
/-! Traces of events without gaps between them (30_encoding.md R81, 43_button.md R156, 44_state_machine.md R179): a
button held through boot, and a click. -/

namespace Sys2Proof.Machine

theorem runTrace_cons {i : Instr} {s u : State} (h : exec i s = .next u) (tr : List Instr) :
    runTrace (i :: tr) s = runTrace tr u := by
  rw [runTrace, h]

/-- What each event of such a trace does to the state and the button: a cycle that samples 0 leads out of `Init`, and
keeps Idle where the level before was 0 as well. -/
theorem held_event {i : Instr} (hi : i = .tick ∨ i = .fire ∨ i = .cycle 0) (s : State) : ∃ u, exec i s = .next u ∧
    (s.driveState = .init → if i = .cycle 0 then u.driveState = .idle ∧ u.prevBtn = 0 else u.driveState = .init) ∧
    (s.driveState = .idle ∧ s.prevBtn = 0 → u.driveState = .idle ∧ u.prevBtn = 0) := by
  rcases hi with rfl | rfl | rfl
  · exact ⟨_, exec_tick s, id, id⟩
  · refine ⟨_, exec_fire s, ?_⟩
    rw [fireEvent_driveState, fireEvent_prevBtn]
    exact ⟨id, id⟩
  · refine ⟨_, exec_cycle 0 s, ?_⟩
    have hbtn : (runCycle 0 s).prevBtn = 0 := by
      obtain ⟨-, -, -, -, -, hprev, -⟩ := cycleWritesOnlyItsOwnRegisters s _ 0 (exec_cycle 0 s)
      exact hprev
    rw [if_pos rfl, hbtn, runCycle_driveState]
    refine ⟨fun hst => ⟨sensed_next hst, rfl⟩, fun ⟨hst, hprev⟩ => ⟨?_, rfl⟩⟩
    rw [sensed_next hst, pressEdge_false (by simp [hprev])]
    rfl

theorem heldTrace_from_idle {tr : List Instr} (htr : ∀ i ∈ tr, i = .tick ∨ i = .fire ∨ i = .cycle 0) {s t : State}
    (hs : s.driveState = .idle ∧ s.prevBtn = 0) (ht : runTrace tr s = .next t) :
    t.driveState = .idle ∧ t.prevBtn = 0 := by
  induction tr generalizing s with
  | nil =>
    cases ht
    exact hs
  | cons i tr ih =>
    obtain ⟨u, hexec, -, hidle⟩ := held_event (htr i List.mem_cons_self) s
    rw [runTrace_cons hexec] at ht
    exact ih (fun j hj => htr j (List.mem_cons_of_mem _ hj)) (hidle hs) ht

theorem heldTrace_from_init {tr : List Instr} (htr : ∀ i ∈ tr, i = .tick ∨ i = .fire ∨ i = .cycle 0) {s t : State}
    (hs : s.driveState = .init) (ht : runTrace tr s = .next t) :
    if Instr.cycle 0 ∈ tr then t.driveState = .idle ∧ t.prevBtn = 0 else t.driveState = .init := by
  induction tr generalizing s with
  | nil =>
    cases ht
    simpa using hs
  | cons i tr ih =>
    obtain ⟨u, hexec, hinit, -⟩ := held_event (htr i List.mem_cons_self) s
    rw [runTrace_cons hexec] at ht
    have hrest : ∀ j ∈ tr, j = .tick ∨ j = .fire ∨ j = .cycle 0 := fun j hj => htr j (List.mem_cons_of_mem _ hj)
    have hu := hinit hs
    by_cases hi : i = .cycle 0
    · rw [if_pos hi] at hu
      rw [if_pos (by simp [hi])]
      exact heldTrace_from_idle hrest hu ht
    · rw [if_neg hi] at hu
      have hmem : Instr.cycle 0 ∈ i :: tr ↔ Instr.cycle 0 ∈ tr := List.mem_cons.trans (or_iff_right (Ne.symm hi))
      simpa only [hmem] using ih hrest hu ht

/-- Settles O28. `RESET` leaves `Init`; there the first cycle of the trace leads to Idle, and the level it sampled keeps
any later cycle from seeing an edge. -/
theorem heldThroughBootStaysInIdle : Obligations.HeldThroughBootStaysInIdle := by
  unfold Obligations.HeldThroughBootStaysInIdle
  intro s t tr htr ht
  rw [runTrace_cons (exec_reset 0 s)] at ht
  exact heldTrace_from_init htr rfl ht

/-- A press or a release is the ticks of a cycle period and one cycle. -/
theorem waitCycles_one (v : Bit) : waitCycles v 1 = ticks Config.cyclePeriodMs ++ [.cycle v] := by
  simp [waitCycles]

theorem runTrace_waitCycle (v : Bit) (s : State) : ∃ u, runTrace (waitCycles v 1) s = .next (runCycle v u) ∧
    u.sameButPreempted s := by
  obtain ⟨u, hticks, hframe, -⟩ := runTrace_ticks Config.cyclePeriodMs s
  refine ⟨u, ?_, hframe⟩
  rw [waitCycles_one, runTrace_append hticks, runTrace_cons (exec_cycle v u)]
  rfl

/-- Settles O29. The ticks change neither the state nor the button; the press leads from Idle to Hold, and the release
has no edge. -/
theorem clickMovesIdleToHold : Obligations.ClickMovesIdleToHold := by
  unfold Obligations.ClickMovesIdleToHold
  intro s hst hprev
  obtain ⟨u, hpress, huframe⟩ := runTrace_waitCycle 0 s
  obtain ⟨v, hrelease, hvframe⟩ := runTrace_waitCycle 1 (runCycle 0 u)
  obtain ⟨p, hp, hpframe, -⟩ := pressInIdleEntersHold u (by rw [huframe]; exact hst) (by rw [huframe]; exact hprev)
  obtain rfl : runCycle 0 u = p := Host.Outcome.next.inj hp
  have hvhold : v.driveState = .hold := by rw [hvframe, hpframe]
  obtain ⟨q, hq, hqframe, -⟩ := cycleWithoutEdgeStays v 1 (.inr hvhold) (by simp)
  obtain rfl : runCycle 1 v = q := Host.Outcome.next.inj hq
  refine ⟨runCycle 1 v, (runTrace_append hpress _).trans hrelease, ?_⟩
  rw [hqframe, hvframe, hpframe]
  exact ⟨rfl, rfl, rfl, rfl⟩

end Sys2Proof.Machine
end

section
/-! Runs go on, and are fair (20_memory.md R66, 70_reset_and_hazards.md R247). Every step of a legal queue completes
and takes one word off it, so every queued word comes to be next; where nothing is left, the environment draws a
stretch that has a `TICK` and a `CYCLE`. -/

namespace Sys2Proof.Machine

/-- A step of a legal queue performs an event, and what it leaves queued is what the fetch left. -/
theorem step_legal {s : State} (h : s.legalQueue) :
    ∃ t, step s = .next t ∧ t.queue = (fetch s).2.queue ∧ t.legalQueue := by
  obtain ⟨⟨i, hi, henc⟩, hrest⟩ := fetch_legal h
  obtain ⟨u, hexec, hqueue⟩ := exec_event_queue hi (fetch s).2
  refine ⟨drainGaps u, ?_, ?_, ?_⟩
  · rw [step_of_decode (decode_event hi henc), hexec]
    rfl
  · rw [drainGaps_queue, hqueue]
  · unfold State.legalQueue
    rw [drainGaps_queue, hqueue]
    exact hrest

/-- Settles O59. -/
theorem eventsAlwaysComplete : Obligations.EventsAlwaysComplete := by
  unfold Obligations.EventsAlwaysComplete
  intro s h
  obtain ⟨t, hstep, -, hlegal⟩ := step_legal h
  exact ⟨t, hstep, hlegal⟩

/-- Steps take the words off a queue in their order. -/
theorem after_queue {front rest : List Stimulus} {s : State} (h : s.legalQueue) (hq : s.queue = front ++ rest) :
    ∃ t, State.after front.length s = .next t ∧ t.queue = rest ∧ t.legalQueue := by
  induction front generalizing s with
  | nil => exact ⟨s, rfl, hq, h⟩
  | cons it front ih =>
    obtain ⟨u, hstep, hqueue, hlegal⟩ := step_legal h
    rw [fetch_queued hq] at hqueue
    obtain ⟨t, hafter, hrest⟩ := ih hlegal hqueue
    exact ⟨t, (after_succ hstep _).trans hafter, hrest⟩

theorem after_legal (n : Nat) {s : State} (h : s.legalQueue) : ∃ t, State.after n s = .next t ∧ t.legalQueue := by
  induction n generalizing s with
  | zero => exact ⟨s, rfl, h⟩
  | succ n ih =>
    obtain ⟨u, hstep, -, hlegal⟩ := step_legal h
    obtain ⟨t, hafter, ht⟩ := ih hlegal
    exact ⟨t, (after_succ hstep n).trans hafter, ht⟩

/-- What the next event is comes from the word at the front and its gaps. -/
theorem fetch_of_front {s : State} {it : Stimulus} {rest : List Stimulus} (h : s.queue = it :: rest) :
    (fetch s).1 = it.code ∧ (fetch s).2.gaps = it.gaps := by
  rw [fetch_queued h]
  exact ⟨rfl, rfl⟩

/-- From a state with nothing queued, every event of the drawn stretch comes to be next. -/
theorem reaches_drawn {s : State} (h : s.legalQueue) (hq : s.queue = []) {e : EnvEvent}
    (he : e ∈ (Config.envBlock s.draws).first :: fairRest (Config.envBlock s.draws)) :
    ∃ m t, State.after m s = .next t ∧ (fetch t).1 = e.kind.code ∧ (fetch t).2.gaps = e.gaps := by
  rcases List.mem_cons.mp he with rfl | hrest
  · refine ⟨0, s, rfl, ?_⟩
    rw [fetch_drawn hq]
    exact ⟨rfl, rfl⟩
  · obtain ⟨u, hstep, hqueue, hlegal⟩ := step_legal h
    obtain ⟨before, later, hsplit⟩ := List.append_of_mem hrest
    have hu : u.queue = before.map asStimulus ++ (asStimulus e :: later.map asStimulus) := by
      rw [hqueue, fetch_drawn hq]
      show (fairRest _).map asStimulus = _
      rw [hsplit, List.map_append, List.map_cons]
    obtain ⟨t, hafter, ht, -⟩ := after_queue hlegal hu
    exact ⟨_, t, (after_succ hstep _).trans hafter, fetch_of_front ht⟩

/-- An event of a kind that `fairRest` adds where it is missing is in the completed stretch. -/
theorem exists_in_stretch {b : EnvBlock} {brings : EnvEvent → Bool} {added : EnvEvent} (hadded : brings added = true)
    (hmissing : (b.first :: b.others).any brings = false → added ∈ fairRest b) :
    ∃ e ∈ b.first :: fairRest b, brings e = true := by
  cases h : (b.first :: b.others).any brings with
  | true =>
    obtain ⟨e, he, hbrings⟩ := List.any_eq_true.mp h
    have hsub : b.first :: b.others ⊆ b.first :: fairRest b := by
      rw [fairRest, List.append_assoc]
      exact List.cons_subset_cons _ (List.subset_append_left _ _)
    exact ⟨e, hsub he, hbrings⟩
  | false => exact ⟨added, List.mem_cons_of_mem _ (hmissing h), hadded⟩

theorem exists_bringsTick (b : EnvBlock) : ∃ e ∈ b.first :: fairRest b, bringsTick e = true :=
  exists_in_stretch (added := { kind := .tick, gaps := [] }) rfl fun h => by simp [fairRest, h]

theorem exists_bringsCycle (b : EnvBlock) : ∃ e ∈ b.first :: fairRest b, bringsCycle e = true :=
  exists_in_stretch (added := { kind := .cycle b.level, gaps := [] }) rfl fun h => by simp [fairRest, h]

theorem tickNext_of_bringsTick {t : State} {e : EnvEvent} (hcode : (fetch t).1 = e.kind.code)
    (hgaps : (fetch t).2.gaps = e.gaps) (he : bringsTick e = true) : t.tickNext := by
  unfold State.tickNext
  rw [hcode, hgaps]
  rcases (Bool.or_eq_true _ _).mp he with hkind | hin
  · refine .inl ?_
    rw [beq_iff_eq.mp hkind]
    exact decode_event (i := .tick) rfl rfl
  · exact .inr (List.contains_iff_mem.mp hin)

theorem cycleNext_of_bringsCycle {t : State} {e : EnvEvent} (hcode : (fetch t).1 = e.kind.code)
    (he : bringsCycle e = true) : t.cycleNext := by
  unfold State.cycleNext
  rw [hcode]
  unfold bringsCycle at he
  split at he
  · next b hkind =>
    rw [hkind]
    exact ⟨b, decode_event (i := .cycle b) rfl rfl⟩
  · cases he
  · cases he

/-- Settles O60. From any point of a run the queue is used up, and the stretch then drawn has both. -/
theorem everyRunIsFair : Obligations.EveryRunIsFair := by
  unfold Obligations.EveryRunIsFair
  intro s h n
  obtain ⟨u, hn, hu⟩ := after_legal n h
  obtain ⟨v, huv, hqueue, hv⟩ := after_queue hu (List.append_nil _).symm
  have hlater {m : Nat} {t : State} (hm : State.after m v = .next t) :
      State.after (n + (u.queue.length + m)) s = .next t := by
    rw [after_add hn, after_add huv, hm]
  constructor
  · obtain ⟨e, he, hbrings⟩ := exists_bringsCycle (Config.envBlock v.draws)
    obtain ⟨m, t, hm, hcode, -⟩ := reaches_drawn hv hqueue he
    exact ⟨_, t, Nat.le_add_right _ _, hlater hm, cycleNext_of_bringsCycle hcode hbrings⟩
  · obtain ⟨e, he, hbrings⟩ := exists_bringsTick (Config.envBlock v.draws)
    obtain ⟨m, t, hm, hcode, hgaps⟩ := reaches_drawn hv hqueue he
    exact ⟨_, t, Nat.le_add_right _ _, hlater hm, tickNext_of_bringsTick hcode hgaps hbrings⟩

end Sys2Proof.Machine
end

section
/-! How long a run lasts (44_state_machine.md R180). One queued event at a time: up to preemption it leaves the state
as it was or what a cycle leaves, it takes its word off the queue, and it moves the clock by its own `TICK`s. So along
a trace the samples are those that `sampleTimes` lists and the edges those that `hasPress` looks for. -/

namespace Sys2Proof.Machine

/-! ## Traces as data -/

theorem traceTicks_cons (it : Stimulus) (tr : List Stimulus) : traceTicks (it :: tr) = ticksOf it + traceTicks tr :=
  rfl

theorem traceTicks_append (tr tr' : List Stimulus) : traceTicks (tr ++ tr') = traceTicks tr + traceTicks tr' := by
  rw [traceTicks, List.map_append, List.sum_append]
  rfl

/-- The sample of a cycle that starts at `raw`, in unbounded integers. -/
def sampleOf (factor raw : Nat) (it : Stimulus) : Nat := (raw + (it.gaps.take 2).flatten.count .tick) * factor

theorem sampleTimes_cons_cycle {it : Stimulus} (h : (levelOf it).isSome = true) (factor raw : Nat)
    (tr : List Stimulus) : sampleTimes factor raw (it :: tr) =
      sampleOf factor raw it :: sampleTimes factor (raw + ticksOf it) tr := by
  rw [sampleTimes, if_pos h]
  rfl

theorem sampleTimes_append (factor raw : Nat) (tr tr' : List Stimulus) : sampleTimes factor raw (tr ++ tr') =
    sampleTimes factor raw tr ++ sampleTimes factor (raw + traceTicks tr) tr' := by
  induction tr generalizing raw with
  | nil => rfl
  | cons it tr ih =>
    rw [List.cons_append, sampleTimes, sampleTimes, ih, traceTicks_cons, Nat.add_assoc, List.append_assoc]

theorem hasPress_cons_cycle {it : Stimulus} {b : Bit} (h : levelOf it = some b) (prev : Bit) (tr : List Stimulus) :
    hasPress prev (it :: tr) = (pressEdge prev b || hasPress b tr) := by
  rw [hasPress, h]

theorem hasPress_cons_other {it : Stimulus} (h : levelOf it = none) (prev : Bit) (tr : List Stimulus) :
    hasPress prev (it :: tr) = hasPress prev tr := by
  rw [hasPress, h]

theorem hasPress_append_left {prev : Bit} {tr tr' : List Stimulus} (h : hasPress prev (tr ++ tr') = false) :
    hasPress prev tr = false := by
  induction tr generalizing prev with
  | nil => rfl
  | cons it tr ih =>
    rw [List.cons_append] at h
    cases hlevel : levelOf it with
    | none =>
      rw [hasPress_cons_other hlevel] at h ⊢
      exact ih h
    | some b =>
      rw [hasPress_cons_cycle hlevel, Bool.or_eq_false_iff] at h ⊢
      exact ⟨h.1, ih h.2⟩

/-- An event after `RESET` is a cycle of its level or, having none, a `TICK` or a `FIRE`. -/
theorem decode_of_afterReset {it : Stimulus} (h : afterReset it = true) :
    (∃ b, levelOf it = some b ∧ decode it.code = .ok (.cycle b)) ∨
    levelOf it = none ∧ (decode it.code = .ok .tick ∨ decode it.code = .ok .fire) := by
  unfold afterReset at h
  unfold levelOf
  split at h
  · next hd => exact .inr ⟨by rw [hd], .inl hd⟩
  · next hd => exact .inr ⟨by rw [hd], .inr hd⟩
  · next b hd => exact .inl ⟨b, by rw [hd], hd⟩
  · cases h

theorem decode_of_levelOf {it : Stimulus} {b : Bit} (h : levelOf it = some b) : decode it.code = .ok (.cycle b) := by
  unfold levelOf at h
  split at h
  · next hd => rw [hd, Option.some.inj h]
  · cases h

theorem afterReset_of_levelOf {it : Stimulus} {b : Bit} (h : levelOf it = some b) : afterReset it = true := by
  rw [afterReset, decode_of_levelOf h]

/-! ## One event -/

/-- The state with the word at the front taken off the queue and its gaps loaded. -/
def State.loaded (it : Stimulus) (rest : List Stimulus) (s : State) : State := { s with queue := rest, gaps := it.gaps }

/-- What an event after `RESET` leaves, but for the preempting agents' own fields. -/
def State.passed (it : Stimulus) (rest : List Stimulus) (s : State) : State :=
  match levelOf it with
  | none => s.loaded it rest
  | some b => (s.loaded it rest).cycled b

theorem ticksOf_of_decode {it : Stimulus} {i : Instr} (h : decode it.code = .ok i) :
    ticksOf it = (if i = .tick then 1 else 0) + it.gaps.flatten.count .tick := by
  simp only [ticksOf, h, Except.ok.injEq]

theorem step_passes {s : State} {it : Stimulus} {rest : List Stimulus} (hq : s.queue = it :: rest)
    (h : afterReset it = true) : ∃ u, step s = .next u ∧ u.sameButPreempted (s.passed it rest) ∧
      u.rawMs = s.rawMs + BitVec.ofNat 32 (ticksOf it) := by
  have hloaded : clockSum (s.loaded it rest) = s.rawMs + BitVec.ofNat 32 (it.gaps.flatten.count .tick) := rfl
  rcases decode_of_afterReset h with ⟨b, hlevel, hdecode⟩ | ⟨hlevel, hdecode⟩
  · refine ⟨drainGaps (runCycle b (s.loaded it rest)), step_queued hq hdecode, ?_, ?_⟩
    · rw [State.passed, hlevel]
      exact sameButPreempted_trans (drainGaps_frame _) (runCycle_reaches b _).frame
    · rw [drainGaps_rawMs, clockSum_runCycle, hloaded, ticksOf_of_decode hdecode, if_neg (by simp), Nat.zero_add]
  · rw [State.passed, hlevel]
    rcases hdecode with hdecode | hdecode
    · refine ⟨drainGaps (tickOnce (s.loaded it rest)), step_queued hq hdecode, ?_, ?_⟩
      · exact sameButPreempted_trans (drainGaps_frame _) (runPreempt_frame _ .tick)
      · rw [drainGaps_rawMs, ticksOf_of_decode hdecode, if_pos rfl, BitVec.ofNat_add, ← BitVec.add_assoc]
        rfl
    · refine ⟨drainGaps (fireEvent (s.loaded it rest)), step_queued hq hdecode, ?_, ?_⟩
      · exact sameButPreempted_trans (drainGaps_frame _) (fireEvent_frame _)
      · rw [drainGaps_rawMs, clockSum_fireEvent, hloaded, ticksOf_of_decode hdecode, if_neg (by simp), Nat.zero_add]

/-- Where the clock does not overflow, a cycle's sample is the one that `sampleTimes` lists: the `TICK`s of its first
two gaps are among its own. -/
theorem sampleTime_loaded {s : State} {it : Stimulus} (rest : List Stimulus)
    (hraw : s.rawMs.toNat + ticksOf it < 2 ^ 32) (htime : (s.rawMs.toNat + ticksOf it) * s.factor.toNat < 2 ^ 32) :
    (sampleTime (s.loaded it rest)).toNat = sampleOf s.factor.toNat s.rawMs.toNat it := by
  have hcount : (it.gaps.take 2).flatten.count .tick ≤ ticksOf it := by
    have hsplit : it.gaps.flatten.count .tick =
        (it.gaps.take 2).flatten.count .tick + (it.gaps.drop 2).flatten.count .tick := by
      rw [← List.count_append, ← List.flatten_append, List.take_append_drop]
    unfold ticksOf
    omega
  have hsum : (s.rawMs + BitVec.ofNat 32 ((it.gaps.take 2).flatten.count .tick)).toNat =
      s.rawMs.toNat + (it.gaps.take 2).flatten.count .tick := by
    rw [BitVec.toNat_add, BitVec.toNat_ofNat, Nat.add_mod_mod, Nat.mod_eq_of_lt (by omega)]
  have hfits : sampleOf s.factor.toNat s.rawMs.toNat it < 2 ^ 32 :=
    lt_of_le_of_lt (Nat.mul_le_mul_right _ (by omega)) htime
  show (logicalNow (s.rawMs + BitVec.ofNat 32 ((it.gaps.take 2).flatten.count .tick)) s.factor).toNat = _
  rw [logicalNow_toNat (by rw [hsum]; exact hfits), hsum]
  rfl

/-- The clock after an event, where it does not overflow. -/
theorem rawMs_after {s u : State} {n : Nat} (h : u.rawMs = s.rawMs + BitVec.ofNat 32 n)
    (hraw : s.rawMs.toNat + n < 2 ^ 32) : u.rawMs.toNat = s.rawMs.toNat + n := by
  rw [h, BitVec.toNat_add, BitVec.toNat_ofNat, Nat.add_mod_mod, Nat.mod_eq_of_lt hraw]

/-! ## A run that goes on -/

/-- The run of `s` still lasts in `u`. -/
structure RunLasts (s u : State) : Prop where
  run : u.driveState = .run
  deadline : u.runDeadline = s.runDeadline
  motor : u.motorEn = s.motorEn
  stepping : u.steppingEn = s.steppingEn
  factor : u.factor = s.factor

theorem RunLasts.trans {s t u : State} (h : RunLasts s t) (k : RunLasts t u) : RunLasts s u :=
  ⟨k.run, k.deadline.trans h.deadline, k.motor.trans h.motor, k.stepping.trans h.stepping, k.factor.trans h.factor⟩

theorem RunLasts.preempted {s t u : State} (h : RunLasts s t) (hframe : u.sameButPreempted t) : RunLasts s u := by
  unfold State.sameButPreempted at hframe
  rw [hframe]
  exact ⟨h.run, h.deadline, h.motor, h.stepping, h.factor⟩

theorem cycled_runLasts {s : State} {b : Bit} (hrun : s.driveState = .run) (hedge : pressEdge s.prevBtn b = false)
    (hbefore : (sampleTime s).toNat < s.runDeadline.toNat) :
    RunLasts s (s.cycled b) ∧ (s.cycled b).queue = s.queue ∧ (s.cycled b).prevBtn = b := by
  have hnext : (sensed b s).next = s.driveState := by
    rw [sensed_next hrun, hedge, (deadlineReached_eq_false_iff _ _).mpr hbefore, hrun]
    rfl
  rw [cycled_redraw hnext hrun, redrawn_run (s := s.sensing b) hrun]
  exact ⟨⟨hrun, rfl, rfl, rfl, rfl⟩, rfl, rfl⟩

/-- One event of a trace without a press-edge, its sample (if it has one) before the deadline. -/
theorem passed_runLasts {s : State} {it : Stimulus} {tr rest : List Stimulus} (hrun : s.driveState = .run)
    (hpress : hasPress s.prevBtn (it :: tr) = false)
    (hbefore : (levelOf it).isSome = true → (sampleTime (s.loaded it rest)).toNat < s.runDeadline.toNat) :
    RunLasts s (s.passed it rest) ∧ (s.passed it rest).queue = rest ∧
      ∀ l, hasPress s.prevBtn (it :: l) = hasPress (s.passed it rest).prevBtn l := by
  unfold State.passed
  cases hlevel : levelOf it with
  | none => exact ⟨⟨hrun, rfl, rfl, rfl, rfl⟩, rfl, hasPress_cons_other hlevel s.prevBtn⟩
  | some b =>
    rw [hasPress_cons_cycle hlevel, Bool.or_eq_false_iff] at hpress
    obtain ⟨hedge, -⟩ := hpress
    obtain ⟨hlasts, hqueue, hprev⟩ := cycled_runLasts (s := s.loaded it rest) hrun hedge (hbefore (by rw [hlevel]; rfl))
    refine ⟨⟨hlasts.run, hlasts.deadline, hlasts.motor, hlasts.stepping, hlasts.factor⟩, hqueue, fun l => ?_⟩
    simp only [hasPress_cons_cycle hlevel, hprev, hedge, Bool.false_or]

/-- Part (a) of R180, with what the next part of a trace needs: the clock, and the button as `hasPress` sees it. -/
theorem run_lasts {tr rest : List Stimulus} {s : State} (hrun : s.driveState = .run) (hq : s.queue = tr ++ rest)
    (hafter : ∀ x ∈ tr, afterReset x = true) (hpress : hasPress s.prevBtn tr = false)
    (hraw : s.rawMs.toNat + traceTicks tr < 2 ^ 32)
    (htime : (s.rawMs.toNat + traceTicks tr) * s.factor.toNat < 2 ^ 32)
    (hbefore : ∀ t ∈ sampleTimes s.factor.toNat s.rawMs.toNat tr, t < s.runDeadline.toNat) :
    ∃ u, State.after tr.length s = .next u ∧ RunLasts s u ∧ u.queue = rest ∧
      u.rawMs.toNat = s.rawMs.toNat + traceTicks tr ∧ ∀ l, hasPress s.prevBtn (tr ++ l) = hasPress u.prevBtn l := by
  induction tr generalizing s with
  | nil => exact ⟨s, rfl, ⟨hrun, rfl, rfl, rfl, rfl⟩, hq, rfl, fun _ => rfl⟩
  | cons it tr ih =>
    rw [traceTicks_cons] at hraw htime
    have hraw1 : s.rawMs.toNat + ticksOf it < 2 ^ 32 := by omega
    have htime1 : (s.rawMs.toNat + ticksOf it) * s.factor.toNat < 2 ^ 32 :=
      lt_of_le_of_lt (Nat.mul_le_mul_right _ (by omega)) htime
    obtain ⟨v, hstep, hframe, hclock⟩ := step_passes (rest := tr ++ rest) hq (hafter it List.mem_cons_self)
    obtain ⟨hpassed, hqueue, hbutton⟩ := passed_runLasts (rest := tr ++ rest) hrun hpress fun hcycle => by
      rw [sampleTime_loaded _ hraw1 htime1]
      exact hbefore _ (by rw [sampleTimes_cons_cycle hcycle]; exact List.mem_cons_self)
    have hlasts := hpassed.preempted hframe
    have hvqueue : v.queue = tr ++ rest := by rw [hframe]; exact hqueue
    have hvprev : v.prevBtn = (s.passed it (tr ++ rest)).prevBtn := by rw [hframe]
    have hvraw := rawMs_after hclock hraw1
    obtain ⟨u, hrest, hulasts, huqueue, huraw, hubutton⟩ := ih hlasts.run hvqueue
      (fun x hx => hafter x (List.mem_cons_of_mem _ hx)) (by rw [hvprev, ← hbutton]; exact hpress) (by omega)
      (by rw [hvraw, hlasts.factor, Nat.add_assoc]; exact htime)
      (fun t ht => by
        rw [hvraw, hlasts.factor] at ht
        rw [hlasts.deadline]
        exact hbefore t (List.mem_append_right _ ht))
    refine ⟨u, (after_succ hstep _).trans hrest, hlasts.trans hulasts, huqueue, ?_, fun l => ?_⟩
    · rw [huraw, hvraw, traceTicks_cons, Nat.add_assoc]
    · rw [List.cons_append, hbutton, ← hvprev, hubutton]

/-! ## A run that ends -/

theorem cycled_expired {s : State} {b : Bit} (hrun : s.driveState = .run)
    (hreached : s.runDeadline.toNat ≤ (sampleTime s).toNat) : (s.cycled b).driveState = .idle ∧
      (s.cycled b).motorEn = false ∧ (s.cycled b).steppingEn = false ∧ (s.cycled b).queue = s.queue := by
  have hnext : (sensed b s).next = .idle :=
    (sensed_next hrun).trans (nextOf_run_eq_idle (.inr ((deadlineReached_eq_true_iff _ _).mpr hreached)))
  rw [cycled_change (by rw [hnext, hrun]; decide), hnext]
  exact ⟨rfl, rfl, rfl, rfl⟩

/-- Part (b) of R180: the samples before the last are those of `tr`, which is a part (a), and the last is that of the
cycle `it`. -/
theorem run_ends {s : State} {tr rest : List Stimulus} {it : Stimulus} {ts : List Nat} {t1 : Nat}
    (hrun : s.driveState = .run) (hq : s.queue = tr ++ it :: rest) (hafter : ∀ x ∈ tr, afterReset x = true)
    (hcycle : (levelOf it).isSome = true) (hpress : hasPress s.prevBtn (tr ++ [it]) = false)
    (hraw : s.rawMs.toNat + traceTicks (tr ++ [it]) < 2 ^ 32)
    (htime : (s.rawMs.toNat + traceTicks (tr ++ [it])) * s.factor.toNat < 2 ^ 32)
    (hsamples : sampleTimes s.factor.toNat s.rawMs.toNat (tr ++ [it]) = ts ++ [t1])
    (hbefore : ∀ t ∈ ts, t < s.runDeadline.toNat) (hreached : s.runDeadline.toNat ≤ t1) :
    (∃ u, State.after tr.length s = .next u ∧ RunLasts s u) ∧
    ∃ u, State.after (tr.length + 1) s = .next u ∧ u.driveState = .idle ∧ u.motorEn = false ∧ u.steppingEn = false ∧
      u.queue = rest := by
  have hticks : traceTicks (tr ++ [it]) = traceTicks tr + ticksOf it := by
    rw [traceTicks_append, traceTicks_cons]
    rfl
  rw [hticks] at hraw htime
  rw [sampleTimes_append, sampleTimes_cons_cycle hcycle, sampleTimes] at hsamples
  obtain ⟨rfl, hlast⟩ := List.append_inj' hsamples rfl
  obtain rfl : sampleOf s.factor.toNat (s.rawMs.toNat + traceTicks tr) it = t1 := (List.cons.inj hlast).1
  obtain ⟨u, hrest, hlasts, hqueue, huraw, -⟩ := run_lasts hrun hq hafter (hasPress_append_left hpress) (by omega)
    (lt_of_le_of_lt (Nat.mul_le_mul_right _ (by omega)) htime) hbefore
  obtain ⟨b, hlevel⟩ := Option.isSome_iff_exists.mp hcycle
  obtain ⟨v, hstep, hframe, -⟩ := step_passes hqueue (afterReset_of_levelOf hlevel)
  have hsample : (sampleTime (u.loaded it rest)).toNat = sampleOf u.factor.toNat u.rawMs.toNat it :=
    sampleTime_loaded rest (by omega) (by rw [huraw, hlasts.factor, Nat.add_assoc]; exact htime)
  have hexpired := cycled_expired (s := u.loaded it rest) (b := b) hlasts.run (by
    rw [hsample, huraw, hlasts.factor]
    exact le_of_eq_of_le (congrArg BitVec.toNat hlasts.deadline) hreached)
  rw [State.passed, hlevel] at hframe
  refine ⟨⟨u, hrest, hlasts⟩, v, (after_add hrest 1).trans ((after_succ hstep 0).trans rfl), ?_⟩
  rw [hframe]
  exact hexpired

/-! ## A run from its start -/

theorem cycled_entersRun {s : State} (hhold : s.driveState = .hold) (hprev : s.prevBtn = 1) :
    (s.cycled 0).driveState = .run ∧ (s.cycled 0).runDeadline = deadlineFrom (sampleTime s) ∧
    (s.cycled 0).motorEn = true ∧ (s.cycled 0).steppingEn = true ∧ (s.cycled 0).prevBtn = 0 ∧
    (s.cycled 0).queue = s.queue ∧ (s.cycled 0).factor = s.factor := by
  have hnext : (sensed 0 s).next = .run := by
    rw [sensed_next hhold, pressEdge_true ⟨hprev, rfl⟩]
    rfl
  rw [cycled_change (by rw [hnext, hhold]; decide), hnext]
  exact ⟨rfl, rfl, rfl, rfl, rfl, rfl, rfl⟩

/-- The first step of part (c): a press in Hold, whose sample sets the deadline. -/
theorem run_starts {s : State} {it : Stimulus} {rest : List Stimulus} (hhold : s.driveState = .hold)
    (hprev : s.prevBtn = 1) (hq : s.queue = it :: rest) (hlevel : levelOf it = some 0)
    (hraw : s.rawMs.toNat + ticksOf it < 2 ^ 32) (htime : (s.rawMs.toNat + ticksOf it) * s.factor.toNat < 2 ^ 32)
    (hfits : sampleOf s.factor.toNat s.rawMs.toNat it + 3000000 < 2 ^ 32) :
    ∃ u, step s = .next u ∧ u.driveState = .run ∧
      u.runDeadline.toNat = sampleOf s.factor.toNat s.rawMs.toNat it + 3000000 ∧ u.motorEn = true ∧
      u.steppingEn = true ∧ u.prevBtn = 0 ∧ u.queue = rest ∧ u.factor = s.factor ∧
      u.rawMs.toNat = s.rawMs.toNat + ticksOf it := by
  obtain ⟨u, hstep, hframe, hclock⟩ := step_passes hq (afterReset_of_levelOf hlevel)
  obtain ⟨hrun, hdeadline, hmotor, hstepping, hbtn, hqueue, hfactor⟩ :=
    cycled_entersRun (s := s.loaded it rest) hhold hprev
  have harmed : (deadlineFrom (sampleTime (s.loaded it rest))).toNat =
      sampleOf s.factor.toNat s.rawMs.toNat it + 3000000 := by
    rw [deadlineFrom, BitVec.toNat_add, sampleTime_loaded rest hraw htime]
    exact Nat.mod_eq_of_lt hfits
  rw [State.passed, hlevel] at hframe
  refine ⟨u, hstep, ?_⟩
  rw [rawMs_after hclock hraw, hframe]
  exact ⟨hrun, (congrArg BitVec.toNat hdeadline).trans harmed, hmotor, hstepping, hbtn, hqueue, hfactor, rfl⟩

/-- In a chain of samples at most `P` apart, one that has reached `d` where all before have not is less than `P` past.
-/
theorem last_of_chain {t0 t1 d P : Nat} {ts : List Nat} (hchain : (t0 :: (ts ++ [t1])).IsChain (fun a c => c ≤ a + P))
    (h0 : t0 < d) (hts : ∀ t ∈ ts, t < d) : t1 < d + P := by
  have hne : t0 :: ts ≠ [] := List.cons_ne_nil _ _
  rw [← List.cons_append, List.isChain_append] at hchain
  obtain ⟨-, -, hstep⟩ := hchain
  have hgap := hstep _ (List.getLast_mem_getLast? hne) t1 rfl
  have hlast : (t0 :: ts).getLast hne < d := by
    rcases List.mem_cons.mp (List.getLast_mem hne) with h | h
    · rw [h]
      exact h0
    · exact hts _ h
  omega

/-- Settles O53. The three parts are the trace lemmas; the third takes one step into Run and applies the other two
there. -/
theorem runLastsUntilItsDeadline : Obligations.RunLastsUntilItsDeadline := by
  unfold Obligations.RunLastsUntilItsDeadline
  refine ⟨?_, ?_, ?_⟩
  · intro s tr rest hrun hq hafter hpress hraw htime hbefore
    obtain ⟨u, hrest, hlasts, hqueue, -⟩ := run_lasts hrun hq hafter hpress hraw htime hbefore
    exact ⟨u, hrest, hlasts.run, hlasts.deadline, hlasts.motor, hlasts.stepping, hqueue⟩
  · intro s tr rest it ts t1 hrun hq hafter hcycle hpress hraw htime hsamples hbefore hreached
    exact (run_ends hrun hq hafter hcycle hpress hraw htime hsamples hbefore hreached).2
  · intro s tr rest it0 it ts t0 t1 P hhold hprev hq hlevel hafter hcycle hpress hraw htime hsamples hfits hchain
      hbefore hreached
    rw [traceTicks_cons] at hraw htime
    have hraw1 : s.rawMs.toNat + ticksOf it0 < 2 ^ 32 := by omega
    have htime1 : (s.rawMs.toNat + ticksOf it0) * s.factor.toNat < 2 ^ 32 :=
      lt_of_le_of_lt (Nat.mul_le_mul_right _ (by omega)) htime
    rw [sampleTimes_cons_cycle (by rw [hlevel]; rfl)] at hsamples
    obtain ⟨rfl, hlater⟩ := List.cons.inj hsamples
    obtain ⟨u, hstep, hrun, hdeadline, hmotor, hstepping, hbtn, hqueue, hfactor, huraw⟩ :=
      run_starts hhold hprev hq hlevel hraw1 htime1 hfits
    obtain ⟨⟨v, hv, hlasts⟩, w, hw, hidle, hmotorOff, hsteppingOff, -⟩ :=
      run_ends hrun hqueue hafter hcycle (by rw [hbtn]; exact hpress) (by omega)
        (by rw [huraw, hfactor, Nat.add_assoc]; exact htime) (by rw [huraw, hfactor]; exact hlater)
        (by rw [hdeadline]; exact hbefore) (by rw [hdeadline]; exact hreached)
    refine ⟨last_of_chain hchain (by omega) hbefore, ?_, ?_⟩
    · exact ⟨v, (after_succ hstep _).trans hv, hlasts.run, hlasts.deadline.symm ▸ hdeadline, hlasts.motor.trans hmotor,
        hlasts.stepping.trans hstepping⟩
    · exact ⟨w, (after_succ hstep _).trans hw, hidle, hmotorOff, hsteppingOff⟩

end Sys2Proof.Machine
end
